-- ==== Sys2Proof/Word.lean ====
section
/-! DEFINITION. The word types of the block: bytes, the 16-bit length and the 32-bit timestamp (00_scope.md R11, R13). -/

namespace Sys2Proof

/-- The unit of the stream, of `kind`, `checksum` and of every key code (R11). -/
abbrev Byte := BitVec 8

/-- The width of `payloadLength` (R11). -/
abbrev Half := BitVec 16

/-- The width of the timestamp field of an event frame (R11). -/
abbrev Word := BitVec 32

end Sys2Proof
end

