-- ==== Sys2Proof/Config.lean ====
section
/-! DEFINITION. What an implementation of the block fixes (00_scope.md R6 to R12): the constant MAX_PAYLOAD, the
types of the static parameters DIR and KEYTAB, and the parameter FRAME_TIMEOUT the spec leaves open. -/

namespace Sys2Proof

/-- The static parameter DIR of a parser instance (R7): `cmd` receives command frames, `evt` event frames. -/
inductive Dir where
  | cmd
  | evt
deriving DecidableEq, Repr

/-- The key-code constants that fill the two translation ROMs (R10; 41_key_translator.md R113, R121). The runs
that R128 (c) requires to be contiguous are held by their base constant: `VK_LETTER(i) = VK_A + i`,
`VK_DIGIT(d) = VK_0 + d`, `VK_F(n) = VK_F1 + (n - 1)`, `NK_LETTER(i) = NK_a + i`, `NK_DIGIT(d) = NK_0 + d`. -/
structure KeyTab where
  vkA : Byte
  vk0 : Byte
  vkEnter : Byte
  vkEscape : Byte
  vkBackspace : Byte
  vkTab : Byte
  vkSpace : Byte
  vkF1 : Byte
  vkArrow : Vector Byte 4
  nkA : Byte
  nk0 : Byte
  nkEnter : Byte
  nkEscape : Byte
  nkBackspace : Byte
  nkTab : Byte
  nkSpace : Byte
  /-- `NK_F(1)` to `NK_F(12)`: an explicit table, no run is required (R124). -/
  nkF : Vector Byte 12
  nkArrow : Vector Byte 4
deriving DecidableEq, Repr

/-- The static parameters that all links share: CLOCK_W (R9) and KEYTAB (R10). -/
structure Params where
  clockW : Nat
  keytab : KeyTab
deriving DecidableEq, Repr

namespace Config

/-- MAX_PAYLOAD, the largest payload length a valid frame may carry; the bound is inclusive (R6). -/
def maxPayload : Nat := 250

/-- The number of bytes of the payload buffer BUF, addresses 0 to 249 (10_state.md R37). -/
def bufSize : Nat := 250

/-- The default of CLOCK_W (R9). -/
def defaultClockW : Nat := 32

/-- FRAME_TIMEOUT of the links of `State.reset` (R8): the spec gives no value, so it has no body here. DESIGN
CHOICE, safe (log 3): nothing can be proved of its value but that it lies below 2^32. -/
opaque frameTimeout : Dir → BitVec 32

end Config

end Sys2Proof
end

