-- ==== Sys2Proof/Machine/KeyDefaults.lean ====
section
/-! DEFINITION. The default instantiation of KEYTAB (41_key_translator.md R129). -/

namespace Sys2Proof.Machine

/-- The default KEYTAB of R129: the spec's own numbers, which it marks as general knowledge and not from its source.
PRESUMED, unsafe for a claim about these numbers (log 5). -/
def defaultKeytab : KeyTab where
  vkA := 0x41
  vk0 := 0x30
  vkEnter := 0x0D
  vkEscape := 0x1B
  vkBackspace := 0x08
  vkTab := 0x09
  vkSpace := 0x20
  vkF1 := 0x70
  vkArrow := #v[0x26, 0x28, 0x25, 0x27]
  nkA := 0x61
  nk0 := 0x30
  nkEnter := 0xB0
  nkEscape := 0xB1
  nkBackspace := 0xB2
  nkTab := 0xB3
  nkSpace := 0x20
  nkF := #v[0xC2, 0xC3, 0xC4, 0xC5, 0xC6, 0xC7, 0xC8, 0xC9, 0xCA, 0xCB, 0xCC, 0xCD]
  nkArrow := #v[0xDA, 0xD9, 0xD8, 0xD7]

end Sys2Proof.Machine
end

