-- ==== Sys2Proof/Syntax.lean ====
section
/-! DEFINITION. The instructions of the block: one constructor per row of spec/opcode_table.json, its ten operations
(30_encoding.md R86) and its fifteen frame kinds (R79, R80). -/

namespace Sys2Proof

/-- The column `format` of the opcode table: where a row's bits stand. -/
inductive Format where
  /-- an operation, by its index (R86) -/
  | op
  /-- a command frame on the wire (R70) -/
  | cmd
  /-- an event frame on the wire (R71) -/
  | evt
deriving DecidableEq, Repr

/-- What follows the kind byte of a command frame that arrives (R70). -/
inductive CmdBody where
  /-- the payload and the checksum byte as received; it need not match -/
  | whole (payload : List Byte) (checksum : Byte)
  /-- a length field above MAX_PAYLOAD: the frame is abandoned there and ends at its third byte (R74, R84) -/
  | overlong (len : Half)
deriving DecidableEq, Repr

/-- What follows the kind byte of an event frame that arrives (R71). -/
inductive EvtBody where
  /-- the payload, the timestamp and the checksum byte as received; it need not match -/
  | whole (payload : List Byte) (timestamp : Word) (checksum : Byte)
  /-- a length field above MAX_PAYLOAD: the frame is abandoned there and ends at its third byte (R74, R84) -/
  | overlong (len : Half)
deriving DecidableEq, Repr

/-- The instructions. `link` is the link whose parser instance is addressed (60_exceptions.md R232); `now` is the
clock value at the event, for a frame the one at its first byte (30_encoding.md R89). -/
inductive Instr where
  -- the ten operations (R86)
  | reset (link : Nat)
  | rxByte (link : Nat) (b : Byte) (now : Nat)
  | tick (link : Nat) (now : Nat)
  | xor8 (bytes : List Byte)
  | verify (bytes : List Byte)
  | encCmd (kind : Byte) (payload : List Byte)
  | encEvt (kind : Byte) (payload : List Byte) (timestamp : Word)
  | sc2vk (sc : Byte)
  | vk2nk (vk : Byte)
  | sc2nk (sc : Byte)
  -- the command kinds (R79)
  | cmdMouseMoveAbs (link now : Nat) (body : CmdBody)
  | cmdMouseMoveRel (link now : Nat) (body : CmdBody)
  | cmdMouseClick (link now : Nat) (body : CmdBody)
  | cmdKeyboardText (link now : Nat) (body : CmdBody)
  | cmdKeyPress (link now : Nat) (body : CmdBody)
  | cmdDelay (link now : Nat) (body : CmdBody)
  | cmdStartRecording (link now : Nat) (body : CmdBody)
  | cmdStopRecording (link now : Nat) (body : CmdBody)
  | cmdStatusQuery (link now : Nat) (body : CmdBody)
  /-- the reserved code 0xFF of the command direction: one byte, no operands (44_frame_kinds.md R195) -/
  | cmdReservedFf (link now : Nat)
  -- the event kinds (R80)
  | evtMouseMove (link now : Nat) (body : EvtBody)
  | evtMouseClick (link now : Nat) (body : EvtBody)
  | evtKeyboardInput (link now : Nat) (body : EvtBody)
  | evtStatusResponse (link now : Nat) (body : EvtBody)
  | evtError (link now : Nat) (body : EvtBody)
deriving DecidableEq, Repr

/-- One transaction at the block's inputs: the bytes that stand there, where they stand (`format`), the link they
address and the clock value sampled with them (10_state.md R40, section 6). The stateless operations look at
neither link nor clock. -/
structure Request where
  format : Format
  link : Nat
  now : Nat
  bytes : List Byte
deriving DecidableEq, Repr

end Sys2Proof
end

