-- ==== Sys2Proof/Machine/State.lean ====
section
/-! DEFINITION. The state of the block: the registers of every parser instance (10_state.md R21), the static
parameters (R34), the events still to be taken and the outputs of the last step. -/

namespace Sys2Proof.Machine

/-- The resident states of a parser: the name says which field the next byte fills (R22). HEADER_TYPE, COMPLETE
and REJECTED are never held between two events (R23). -/
inductive ParserState where
  | idle
  | lenLow
  | lenHigh
  | payload
  | tstamp
  | checksum
deriving DecidableEq, Repr

/-- The payload buffer as (address, byte) pairs: addresses strictly rising, no pair with the byte an unlisted
address reads as. -/
abbrev Memory := List Host.Cell

/-- The registers of one parser instance (R21). -/
structure Parser where
  /-- ST -/
  st : ParserState
  /-- KIND: the accepted kind byte of the frame in progress -/
  kind : Byte
  /-- LEN: the payload length -/
  len : Half
  /-- CNT: the number of payload bytes stored so far -/
  cnt : BitVec 8
  /-- BUF[0..249] -/
  buf : Memory
  /-- TS: the timestamp bytes received so far -/
  ts : Word
  /-- TCNT: the number of timestamp bytes stored so far -/
  tcnt : BitVec 3
  /-- CKS: the running XOR of every byte of the frame in progress -/
  cks : Byte
  /-- T0: the clock value at the kind byte, CLOCK_W bits -/
  t0 : Nat
deriving DecidableEq, Repr

/-- A link: its parser instance and the static parameters DIR and FRAME_TIMEOUT of that instance (00_scope.md R7,
R8; 60_exceptions.md R232). -/
structure Link where
  dir : Dir
  frameTimeout : Nat
  regs : Parser
deriving DecidableEq, Repr

/-- The Frame record a parser delivers (R46). `timestamp` is absent when DIR = CMD. -/
structure Frame where
  kind : Byte
  payloadLength : Half
  payload : List Byte
  timestamp : Option Word
  checksum : Byte
deriving DecidableEq, Repr

/-- The reports of a parser (R42; 60_exceptions.md R211). -/
inductive Report where
  | frame (f : Frame)
  | lengthViolation
  | checksumMismatch
  | stalled
deriving DecidableEq, Repr

/-- What the block puts out in one step (R42 to R44). DESIGN CHOICE, safe (log 13): the outputs stand in the state,
for one step. -/
inductive Output where
  /-- nothing -/
  | quiet
  /-- the reports of the parser of one link, in order -/
  | reports (link : Nat) (emitted : List Report)
  /-- the result of XOR8, SC2VK, VK2NK or SC2NK -/
  | byte (value : Byte)
  /-- the result of VERIFY -/
  | truth (value : Bool)
  /-- the byte sequence of ENC_CMD or ENC_EVT, index 0 first, for the transport -/
  | bytes (sequence : List Byte)
  /-- the error of ENC_CMD or ENC_EVT, with no byte -/
  | lengthViolation
deriving DecidableEq, Repr

/-- The state of the block. -/
structure State where
  /-- CLOCK_W and KEYTAB; no step writes them -/
  params : Params
  /-- one parser instance per link -/
  links : List Link
  /-- what the environment has put to the block and no step has taken yet, first in first out -/
  pending : List Request
  /-- the outputs of the last step -/
  out : Output
deriving DecidableEq, Repr

/-- Why a step stops with a fault. -/
inductive Fault where
  /-- Raised by an operation or a frame addressed to a link the machine does not have (R232: an event belongs to an
  instance). Safe: the spec gives such an event no effect. -/
  | noSuchLink
deriving DecidableEq, Repr

/-- Why a step refuses an instruction. -/
inductive Refusal where
  /-- Raised by an arm of `exec` whose instruction has no meaning yet. Safe. No arm is left that raises it. -/
  | notModelled (mnemonic : String)
  /-- Raised by the fetch when the bytes at the operation port are none of the ten operations of 30_encoding.md R86.
  Safe: the spec has no such event. -/
  | notAnOperation
deriving DecidableEq, Repr

/-- The three outcomes of a step of this machine. -/
abbrev StepOutcome := Host.Outcome State Fault Refusal

/-- The registers right after the first RESET (R39). T0 and BUF are unspecified there: DESIGN CHOICE, unsafe, T0 is
0 (log 1) and no byte of BUF is listed (log 2). -/
def Parser.afterReset : Parser where
  st := .idle
  kind := 0
  len := 0
  cnt := 0
  buf := []
  ts := 0
  tcnt := 0
  cks := 0
  t0 := 0

/-- A link right after its first RESET, with the open FRAME_TIMEOUT (log 3). -/
def Link.afterReset (dir : Dir) : Link where
  dir := dir
  frameTimeout := (Config.frameTimeout dir).toNat
  regs := Parser.afterReset

/-- The machine right after reset (R39; 70_reset_and_hazards.md R240, R241), every instance having had its RESET
(log 17). DESIGN CHOICE: two links, link 0 with DIR = CMD and link 1 with DIR = EVT (log 6). CLOCK_W and KEYTAB are
the spec's defaults (logs 4, 5). -/
def State.reset : State where
  params := { clockW := Config.defaultClockW, keytab := defaultKeytab }
  links := [Link.afterReset .cmd, Link.afterReset .evt]
  pending := []
  out := .quiet

end Sys2Proof.Machine
end

