-- ==== Sys2Proof/Machine/Ops.lean ====
section
/-! DEFINITION. The shared operations: the payload buffer, the running XOR, the reset of a parser, the raising of a
report (the block's exception, 60_exceptions.md R223), and the addressing of a link. -/

namespace Sys2Proof.Machine

/-! ### The payload buffer (20_memory.md R54, R56 to R58) -/

/-- What an unlisted byte of BUF reads as: the spec leaves it unspecified (10_state.md R27). DESIGN CHOICE, unsafe
(log 2). -/
def unlistedByte : Byte := 0

/-- Byte `addr` of the buffer. -/
def Memory.read : Memory → Nat → Byte
  | [], _ => unlistedByte
  | (a, v) :: rest, addr => if a = addr then v else Memory.read rest addr

/-- A list of cells with byte `addr` set to `b`, the form of `Memory.wf` kept. -/
def Memory.set : Memory → Nat → Byte → Memory
  | [], addr, b => if b = unlistedByte then [] else [(addr, b)]
  | (a, v) :: rest, addr, b =>
    if addr < a then (if b = unlistedByte then (a, v) :: rest else (addr, b) :: (a, v) :: rest)
    else if addr = a then (if b = unlistedByte then rest else (addr, b) :: rest)
    else (a, v) :: Memory.set rest addr b

/-- `BUF[addr] <- b` (R57). The address lies in 0 to 249 in every state a run reaches; there is no byte beyond, and
a write there stores nothing (log 15). -/
def Memory.write (m : Memory) (addr : Nat) (b : Byte) : Memory :=
  if addr < Config.bufSize then Memory.set m addr b else m

/-- `{BUF[from], ..., BUF[from+n-1]}`. -/
def Memory.readRun (m : Memory) (start : Nat) : Nat → List Byte
  | 0 => []
  | n + 1 => Memory.read m start :: Memory.readRun m (start + 1) n

/-- The bytes written at `start`, `start + 1`, ... -/
def Memory.writeRun (m : Memory) (start : Nat) : List Byte → Memory
  | [] => m
  | b :: rest => Memory.writeRun (Memory.write m start b) (start + 1) rest

/-- Whether all addresses lie above `bound`, rise strictly and stay inside the buffer, and no byte is the unlisted
one. -/
def Memory.canonicalFrom : Nat → Memory → Bool
  | _, [] => true
  | bound, (a, v) :: rest =>
    decide (bound ≤ a) && decide (a < Config.bufSize) && decide (v ≠ unlistedByte) && Memory.canonicalFrom (a + 1) rest

/-- The canonical form of a buffer: equal contents are equal lists. -/
def Memory.wf (m : Memory) : Bool := Memory.canonicalFrom 0 m

/-! ### The checksum (40_checksum.md R100) -/

/-- `XOR8(s)`: the running bitwise XOR of every byte, seeded at 0 (R100). -/
def xor8From (acc : Byte) : List Byte → Byte
  | [] => acc
  | b :: rest => xor8From (acc ^^^ b) rest

/-- `XOR8(s)` (R100). -/
def xor8 (bytes : List Byte) : Byte := xor8From 0x00 bytes

/-! ### Reset and reports (42_frame_parser.md R141, 60_exceptions.md R223) -/

/-- `parser_reset()` (R141): T0 and BUF are left as they are. -/
def parserReset (p : Parser) : Parser :=
  { p with st := .idle, kind := 0x00, len := 0x0000, cnt := 0, tcnt := 0, ts := 0x00000000, cks := 0x00 }

/-- `raise X` (00_scope.md R16): the report is emitted and `parser_reset()` runs in the same step. Nothing is saved,
there is no vector and nothing to return to: the parser is in IDLE and takes the next byte under the ordinary rules
(R223, R224). -/
def raiseReport (x : Report) (p : Parser) : Parser × Option Report := (parserReset p, some x)

/-! ### Links (60_exceptions.md R232) -/

/-- A step of the parser instance of one link: its registers and its reports are the function's, every other link
and every parameter stays (R61, R232). An event to a link the machine does not have faults (log 14). -/
def onLink (link : Nat) (f : Link → Parser × List Report) (s : State) : StepOutcome :=
  match s.links[link]? with
  | none => .fault .noSuchLink
  | some k => .next { s with
      links := s.links.set link { k with regs := (f k).1 }
      out := .reports link (f k).2 }

/-- A stateless operation: its result is put out and nothing else changes (10_state.md R36, R44). -/
def answer (o : Output) (s : State) : StepOutcome := .next { s with out := o }

end Sys2Proof.Machine
end

