-- ==== Sys2Proof/Machine/Checksum.lean ====
section
/-! DEFINITION. The Checksum Unit: XOR8 and VERIFY (40_checksum.md). -/

namespace Sys2Proof.Machine

/-- `VERIFY(f)` (R104): the XOR of all bytes but the last equals the last; false of the empty sequence. -/
def verifyBytes (f : List Byte) : Bool :=
  match f.getLast? with
  | none => false
  | some last => decide (xor8 f.dropLast = last)

/-- XOR8 (R100). -/
def execXor8 (bytes : List Byte) (s : State) : StepOutcome := answer (.byte (xor8 bytes)) s

/-- VERIFY (R104). -/
def execVerify (bytes : List Byte) (s : State) : StepOutcome := answer (.truth (verifyBytes bytes)) s

end Sys2Proof.Machine
end

