-- ==== Sys2Proof/WellFormed.lean ====
section
/-! DEFINITION. Which instructions are well formed: a payload fits its frame, an abandoned frame's length is
illegal, and an encoder's payload fits its 16-bit count. -/

namespace Sys2Proof

/-- A whole frame carries 0 to MAX_PAYLOAD payload bytes (30_encoding.md R70, R73); a frame that ends at its
length field has an illegal length (R84). -/
abbrev CmdBody.wellFormed : CmdBody → Bool
  | .whole payload _ => decide (payload.length ≤ Config.maxPayload)
  | .overlong len => decide (Config.maxPayload < len.toNat)

/-- As `CmdBody.wellFormed`, for event frames (30_encoding.md R71, R73, R84). -/
abbrev EvtBody.wellFormed : EvtBody → Bool
  | .whole payload _ _ => decide (payload.length ≤ Config.maxPayload)
  | .overlong len => decide (Config.maxPayload < len.toNat)

/-- The payload of an encode request is given with a 16-bit count (10_state.md R43). -/
abbrev payloadCounts (payload : List Byte) : Bool := decide (payload.length ≤ 65535)

/-- The well-formed instructions. Every byte value is legal wherever a byte stands (30_encoding.md R85, R87). -/
def WellFormed : Instr → Bool
  | .reset _ => true
  | .rxByte _ _ _ => true
  | .tick _ _ => true
  | .xor8 _ => true
  | .verify _ => true
  | .encCmd _ payload => payloadCounts payload
  | .encEvt _ payload _ => payloadCounts payload
  | .sc2vk _ => true
  | .vk2nk _ => true
  | .sc2nk _ => true
  | .cmdMouseMoveAbs _ _ body => body.wellFormed
  | .cmdMouseMoveRel _ _ body => body.wellFormed
  | .cmdMouseClick _ _ body => body.wellFormed
  | .cmdKeyboardText _ _ body => body.wellFormed
  | .cmdKeyPress _ _ body => body.wellFormed
  | .cmdDelay _ _ body => body.wellFormed
  | .cmdStartRecording _ _ body => body.wellFormed
  | .cmdStopRecording _ _ body => body.wellFormed
  | .cmdStatusQuery _ _ body => body.wellFormed
  | .cmdReservedFf _ _ => true
  | .evtMouseMove _ _ body => body.wellFormed
  | .evtMouseClick _ _ body => body.wellFormed
  | .evtKeyboardInput _ _ body => body.wellFormed
  | .evtStatusResponse _ _ body => body.wellFormed
  | .evtError _ _ body => body.wellFormed

end Sys2Proof
end

