-- ==== Sys2Proof/Decode.lean ====
section
/-! DEFINITION. Field assembly, the kind codes, the decoder and the encoder (30_encoding.md; R86 for the
operations). The wire layouts are R70 and R71. The spec gives the operations an index and no layout for their
operands; the layout here is the model's. DESIGN CHOICE, unsafe (log 8). -/

namespace Sys2Proof

/-! ### Field assembly -/

/-- Bits 7..0 of a 16-bit value: `lenLow` (R75). -/
def lowByte (n : Half) : Byte := n.extractLsb' 0 8

/-- Bits 15..8 of a 16-bit value: `lenHigh` (R75). -/
def highByte (n : Half) : Byte := n.extractLsb' 8 8

/-- `zext_16(lenLow) | (zext_16(lenHigh) << 8)` (R75): the high byte above the low byte. -/
def joinHalf (low high : Byte) : Half := high ++ low

/-- Bits `8k+7..8k` of the timestamp: `timestampByte k` (R71, R76). -/
def wordByte (k : Nat) (ts : Word) : Byte := ts.extractLsb' (8 * k) 8

/-- `byte0 | (byte1 << 8) | (byte2 << 16) | (byte3 << 24)` (R76). -/
def joinWord (b0 b1 b2 b3 : Byte) : Word := b3 ++ b2 ++ b1 ++ b0

/-- The two length bytes in wire order, least significant first (20_memory.md R50). -/
def lenBytes (n : Half) : List Byte := [lowByte n, highByte n]

/-- The four timestamp bytes in wire order, least significant first (20_memory.md R50). -/
def timestampBytes (ts : Word) : List Byte := [wordByte 0 ts, wordByte 1 ts, wordByte 2 ts, wordByte 3 ts]

/-- The 16-bit count of a byte sequence. -/
def countOf (bytes : List Byte) : Half := BitVec.ofNat 16 bytes.length

/-! ### Kind codes -/

/-- `VALID_KINDS(DIR)`: the kind bytes a parser accepts in IDLE (R78). -/
def validKinds : Dir → List Byte
  | .cmd => [0x01, 0x02, 0x03, 0x04, 0x05, 0x06, 0x10, 0x11, 0x20]
  | .evt => [0x01, 0x02, 0x03, 0x20, 0xFF]

/-- The command kinds a parser starts a frame on (R79); 0xFF is not among them (R81). -/
def cmdOfKind (kind : Byte) : Option (Nat → Nat → CmdBody → Instr) :=
  if kind = 0x01 then some .cmdMouseMoveAbs
  else if kind = 0x02 then some .cmdMouseMoveRel
  else if kind = 0x03 then some .cmdMouseClick
  else if kind = 0x04 then some .cmdKeyboardText
  else if kind = 0x05 then some .cmdKeyPress
  else if kind = 0x06 then some .cmdDelay
  else if kind = 0x10 then some .cmdStartRecording
  else if kind = 0x11 then some .cmdStopRecording
  else if kind = 0x20 then some .cmdStatusQuery
  else none

/-- The event kinds (R80). -/
def evtOfKind (kind : Byte) : Option (Nat → Nat → EvtBody → Instr) :=
  if kind = 0x01 then some .evtMouseMove
  else if kind = 0x02 then some .evtMouseClick
  else if kind = 0x03 then some .evtKeyboardInput
  else if kind = 0x20 then some .evtStatusResponse
  else if kind = 0xFF then some .evtError
  else none

/-! ### Decoder -/

/-- Why bytes are not read as an instruction. -/
inductive Reject where
  /-- there is no byte -/
  | empty
  /-- the bytes end before the instruction does -/
  | truncated
  /-- the first byte is no kind of the stream's direction (R82) -/
  | illegalKind
  /-- the first byte is no operation index (R86) -/
  | illegalOperation
deriving DecidableEq, Repr

/-- What follows the kind byte of a command frame, and the bytes after the frame (R70, R84). -/
def decodeCmdBody : List Byte → Except Reject (CmdBody × List Byte)
  | low :: high :: rest =>
    if Config.maxPayload < (joinHalf low high).toNat then .ok (.overlong (joinHalf low high), rest)
    else match rest.drop (joinHalf low high).toNat with
      | checksum :: after => .ok (.whole (rest.take (joinHalf low high).toNat) checksum, after)
      | [] => .error .truncated
  | _ => .error .truncated

/-- What follows the kind byte of an event frame, and the bytes after the frame (R71, R84). -/
def decodeEvtBody : List Byte → Except Reject (EvtBody × List Byte)
  | low :: high :: rest =>
    if Config.maxPayload < (joinHalf low high).toNat then .ok (.overlong (joinHalf low high), rest)
    else match rest.drop (joinHalf low high).toNat with
      | t0 :: t1 :: t2 :: t3 :: checksum :: after =>
        .ok (.whole (rest.take (joinHalf low high).toNat) (joinWord t0 t1 t2 t3) checksum, after)
      | _ => .error .truncated
  | _ => .error .truncated

/-- The frame at the head of a stream of command frames (R70, R79); the reserved code 0xFF is one byte (R195). -/
def decodeCmd (link now : Nat) : List Byte → Except Reject (Instr × List Byte)
  | [] => .error .empty
  | kind :: rest =>
    if kind = 0xFF then .ok (.cmdReservedFf link now, rest)
    else match cmdOfKind kind with
      | none => .error .illegalKind
      | some ctor => match decodeCmdBody rest with
        | .ok (body, after) => .ok (ctor link now body, after)
        | .error e => .error e

/-- The frame at the head of a stream of event frames (R71, R80). -/
def decodeEvt (link now : Nat) : List Byte → Except Reject (Instr × List Byte)
  | [] => .error .empty
  | kind :: rest => match evtOfKind kind with
    | none => .error .illegalKind
    | some ctor => match decodeEvtBody rest with
      | .ok (body, after) => .ok (ctor link now body, after)
      | .error e => .error e

/-- A 16-bit count, least significant byte first, and that many bytes (10_state.md R43). -/
def decodeCounted : List Byte → Except Reject (List Byte × List Byte)
  | low :: high :: rest =>
    if rest.length < (joinHalf low high).toNat then .error .truncated
    else .ok (rest.take (joinHalf low high).toNat, rest.drop (joinHalf low high).toNat)
  | _ => .error .truncated

/-- The operand of an operation that takes one byte. -/
def decodeOneByte (ctor : Byte → Instr) : List Byte → Except Reject (Instr × List Byte)
  | b :: rest => .ok (ctor b, rest)
  | [] => .error .truncated

/-- ENC_CMD's operands: kind, count, payload (log 8). -/
def decodeEncCmd : List Byte → Except Reject (Instr × List Byte)
  | kind :: rest => match decodeCounted rest with
    | .ok (payload, after) => .ok (.encCmd kind payload, after)
    | .error e => .error e
  | [] => .error .truncated

/-- ENC_EVT's operands: kind, timestamp, count, payload (log 8). -/
def decodeEncEvt : List Byte → Except Reject (Instr × List Byte)
  | kind :: t0 :: t1 :: t2 :: t3 :: rest => match decodeCounted rest with
    | .ok (payload, after) => .ok (.encEvt kind payload (joinWord t0 t1 t2 t3), after)
    | .error e => .error e
  | _ => .error .truncated

/-- An operation: its index (R86) in bits 3..0 of the first byte, bits 7..4 zero, then its operands. XOR8 and
VERIFY take every byte that is left, since their operand has any length (40_checksum.md R100, R104). -/
def decodeOp (link now : Nat) : List Byte → Except Reject (Instr × List Byte)
  | [] => .error .empty
  | op :: rest =>
    if op = 0x00 then .ok (.reset link, rest)
    else if op = 0x01 then decodeOneByte (fun b => .rxByte link b now) rest
    else if op = 0x02 then .ok (.tick link now, rest)
    else if op = 0x03 then .ok (.xor8 rest, [])
    else if op = 0x04 then .ok (.verify rest, [])
    else if op = 0x05 then decodeEncCmd rest
    else if op = 0x06 then decodeEncEvt rest
    else if op = 0x07 then decodeOneByte .sc2vk rest
    else if op = 0x08 then decodeOneByte .vk2nk rest
    else if op = 0x09 then decodeOneByte .sc2nk rest
    else .error .illegalOperation

/-- The instruction at the head of a request's bytes and the bytes after it. -/
def decode (r : Request) : Except Reject (Instr × List Byte) :=
  match r.format with
  | .op => decodeOp r.link r.now r.bytes
  | .cmd => decodeCmd r.link r.now r.bytes
  | .evt => decodeEvt r.link r.now r.bytes

/-! ### Encoder -/

/-- The bytes after the kind byte of a command frame (R70). -/
def cmdBodyBytes : CmdBody → List Byte
  | .whole payload checksum => lenBytes (countOf payload) ++ payload ++ [checksum]
  | .overlong len => lenBytes len

/-- The bytes after the kind byte of an event frame (R71). -/
def evtBodyBytes : EvtBody → List Byte
  | .whole payload timestamp checksum =>
    lenBytes (countOf payload) ++ payload ++ timestampBytes timestamp ++ [checksum]
  | .overlong len => lenBytes len

/-- The first byte of an instruction: its row's `match` in spec/opcode_table.json. -/
def firstByte : Instr → Byte
  | .reset _ => 0x00
  | .rxByte _ _ _ => 0x01
  | .tick _ _ => 0x02
  | .xor8 _ => 0x03
  | .verify _ => 0x04
  | .encCmd _ _ => 0x05
  | .encEvt _ _ _ => 0x06
  | .sc2vk _ => 0x07
  | .vk2nk _ => 0x08
  | .sc2nk _ => 0x09
  | .cmdMouseMoveAbs _ _ _ => 0x01
  | .cmdMouseMoveRel _ _ _ => 0x02
  | .cmdMouseClick _ _ _ => 0x03
  | .cmdKeyboardText _ _ _ => 0x04
  | .cmdKeyPress _ _ _ => 0x05
  | .cmdDelay _ _ _ => 0x06
  | .cmdStartRecording _ _ _ => 0x10
  | .cmdStopRecording _ _ _ => 0x11
  | .cmdStatusQuery _ _ _ => 0x20
  | .cmdReservedFf _ _ => 0xFF
  | .evtMouseMove _ _ _ => 0x01
  | .evtMouseClick _ _ _ => 0x02
  | .evtKeyboardInput _ _ _ => 0x03
  | .evtStatusResponse _ _ _ => 0x20
  | .evtError _ _ _ => 0xFF

/-- The column `format` of an instruction's row. -/
def formatOf : Instr → Format
  | .reset _ | .rxByte _ _ _ | .tick _ _ | .xor8 _ | .verify _ | .encCmd _ _ | .encEvt _ _ _
  | .sc2vk _ | .vk2nk _ | .sc2nk _ => .op
  | .cmdMouseMoveAbs _ _ _ | .cmdMouseMoveRel _ _ _ | .cmdMouseClick _ _ _ | .cmdKeyboardText _ _ _
  | .cmdKeyPress _ _ _ | .cmdDelay _ _ _ | .cmdStartRecording _ _ _ | .cmdStopRecording _ _ _
  | .cmdStatusQuery _ _ _ | .cmdReservedFf _ _ => .cmd
  | .evtMouseMove _ _ _ | .evtMouseClick _ _ _ | .evtKeyboardInput _ _ _ | .evtStatusResponse _ _ _
  | .evtError _ _ _ => .evt

/-- The link an instruction addresses; `none` for a stateless operation (10_state.md R36). -/
def linkOf : Instr → Option Nat
  | .reset link | .rxByte link _ _ | .tick link _ => some link
  | .xor8 _ | .verify _ | .encCmd _ _ | .encEvt _ _ _ | .sc2vk _ | .vk2nk _ | .sc2nk _ => none
  | .cmdMouseMoveAbs link _ _ | .cmdMouseMoveRel link _ _ | .cmdMouseClick link _ _
  | .cmdKeyboardText link _ _ | .cmdKeyPress link _ _ | .cmdDelay link _ _
  | .cmdStartRecording link _ _ | .cmdStopRecording link _ _ | .cmdStatusQuery link _ _
  | .cmdReservedFf link _ => some link
  | .evtMouseMove link _ _ | .evtMouseClick link _ _ | .evtKeyboardInput link _ _
  | .evtStatusResponse link _ _ | .evtError link _ _ => some link

/-- The clock value an instruction carries; `none` where it carries none (R86). -/
def nowOf : Instr → Option Nat
  | .rxByte _ _ now | .tick _ now => some now
  | .reset _ | .xor8 _ | .verify _ | .encCmd _ _ | .encEvt _ _ _ | .sc2vk _ | .vk2nk _ | .sc2nk _ => none
  | .cmdMouseMoveAbs _ now _ | .cmdMouseMoveRel _ now _ | .cmdMouseClick _ now _
  | .cmdKeyboardText _ now _ | .cmdKeyPress _ now _ | .cmdDelay _ now _
  | .cmdStartRecording _ now _ | .cmdStopRecording _ now _ | .cmdStatusQuery _ now _
  | .cmdReservedFf _ now => some now
  | .evtMouseMove _ now _ | .evtMouseClick _ now _ | .evtKeyboardInput _ now _
  | .evtStatusResponse _ now _ | .evtError _ now _ => some now

/-- The bytes after the first byte of an instruction. -/
def operandBytes : Instr → List Byte
  | .reset _ | .tick _ _ | .cmdReservedFf _ _ => []
  | .rxByte _ b _ => [b]
  | .xor8 bytes | .verify bytes => bytes
  | .encCmd kind payload => kind :: (lenBytes (countOf payload) ++ payload)
  | .encEvt kind payload timestamp =>
    kind :: (timestampBytes timestamp ++ lenBytes (countOf payload) ++ payload)
  | .sc2vk b | .vk2nk b | .sc2nk b => [b]
  | .cmdMouseMoveAbs _ _ body | .cmdMouseMoveRel _ _ body | .cmdMouseClick _ _ body
  | .cmdKeyboardText _ _ body | .cmdKeyPress _ _ body | .cmdDelay _ _ body
  | .cmdStartRecording _ _ body | .cmdStopRecording _ _ body | .cmdStatusQuery _ _ body => cmdBodyBytes body
  | .evtMouseMove _ _ body | .evtMouseClick _ _ body | .evtKeyboardInput _ _ body
  | .evtStatusResponse _ _ body | .evtError _ _ body => evtBodyBytes body

/-- An instruction as a request: its bytes, and the link and the clock value it carries (0 where none). -/
def encode (i : Instr) : Request :=
  { format := formatOf i
    link := (linkOf i).getD 0
    now := (nowOf i).getD 0
    bytes := firstByte i :: operandBytes i }

/-! ### Words of the opcode table -/

/-- The bytes of a word of `nbits` bits: bit 0 is the least significant bit of the first byte. -/
def bytesOfWord (nbits w : Nat) : List Byte :=
  (List.range ((nbits + 7) / 8)).map fun k => BitVec.ofNat 8 (w >>> (8 * k))

/-- Where a word of the opcode table stands. The table's rows share words (0x01 is CMD.MOUSE_MOVE_ABS,
EVT.MOUSE_MOVE and RX_BYTE) and only the column `format` tells them apart, which a word does not carry: a word of
fewer than 8 bits is an operation index; a word of 8 bits or more is a command frame where its first byte is a
match of a CMD row, else an operation index. DESIGN CHOICE (log 12). -/
def tableFormat (nbits w : Nat) : Format :=
  if nbits < 8 then .op
  else if BitVec.ofNat 8 w = 0xFF ∨ BitVec.ofNat 8 w ∈ validKinds .cmd then .cmd
  else .op

/-- How many zero bytes stand above a table word. With one byte given, every length field is 0 and seven more bytes
complete the longest instruction; else 258 bytes complete the longest frame (30_encoding.md R73). -/
def zeroBytesAbove (nbits : Nat) : Nat := if nbits ≤ 8 then 7 else 258

/-- A word of the opcode table with zeros above it. -/
def tableRequest (nbits w link : Nat) : Request :=
  { format := tableFormat nbits w
    link := link
    now := 0
    bytes := bytesOfWord nbits w ++ List.replicate (zeroBytesAbove nbits) 0 }

/-- The instruction the decoder reads from a word of the opcode table. -/
def decodeTableWord (nbits w : Nat) : Option Instr :=
  match decode (tableRequest nbits w 0) with
  | .ok (i, _) => some i
  | .error _ => none

end Sys2Proof
end

