-- ==== Sys2Proof/Machine/Operands.lean ====
section
/-! DEFINITION. The operands of the parser's rules: the sampled clock, the parts of LEN and TS, the payload
accumulated so far and the bytes of the frame in progress. -/

namespace Sys2Proof.Machine

/-- A clock value as the block's CLOCK_W wires carry it (00_scope.md R9, R15). -/
def sampleClock (clockW now : Nat) : Nat := now % 2 ^ clockW

/-- `(now - T0) mod 2^CLOCK_W` (42_frame_parser.md R151). -/
def elapsed (clockW t0 now : Nat) : Nat :=
  (sampleClock clockW now + (2 ^ clockW - sampleClock clockW t0)) % 2 ^ clockW

/-- `LEN[7:0] <- b` (10_state.md R26). -/
def setLenLow (len : Half) (b : Byte) : Half := joinHalf b (highByte len)

/-- `LEN[15:8] <- b` (R26). -/
def setLenHigh (len : Half) (b : Byte) : Half := joinHalf (lowByte len) b

/-- `TS[8k+7:8k] <- b` (R28); TS has four bytes, and a fifth has no place (log 15). -/
def setTsByte (ts : Word) (k : Nat) (b : Byte) : Word :=
  match k with
  | 0 => joinWord b (wordByte 1 ts) (wordByte 2 ts) (wordByte 3 ts)
  | 1 => joinWord (wordByte 0 ts) b (wordByte 2 ts) (wordByte 3 ts)
  | 2 => joinWord (wordByte 0 ts) (wordByte 1 ts) b (wordByte 3 ts)
  | 3 => joinWord (wordByte 0 ts) (wordByte 1 ts) (wordByte 2 ts) b
  | _ => ts

/-- `after_payload`: the state after the last payload byte (42_frame_parser.md R158). -/
def afterPayload : Dir → ParserState
  | .cmd => .checksum
  | .evt => .tstamp

/-- `PAY`, the payload accumulated so far (R27). -/
def payloadSoFar (p : Parser) : List Byte := Memory.readRun p.buf 0 p.cnt.toNat

/-- `raw()`, the accumulated raw bytes as a function of the registers (R33). -/
def rawBytes (dir : Dir) (p : Parser) : List Byte :=
  match p.st with
  | .idle => []
  | .lenLow => [p.kind]
  | .lenHigh => [p.kind, lowByte p.len]
  | .payload => [p.kind, lowByte p.len, highByte p.len] ++ payloadSoFar p
  | .tstamp =>
    [p.kind, lowByte p.len, highByte p.len] ++ payloadSoFar p ++ (timestampBytes p.ts).take p.tcnt.toNat
  | .checksum => match dir with
    | .cmd => [p.kind, lowByte p.len, highByte p.len] ++ payloadSoFar p
    | .evt =>
      [p.kind, lowByte p.len, highByte p.len] ++ payloadSoFar p ++ (timestampBytes p.ts).take p.tcnt.toNat

/-- The Frame record handed over on a match, read before the reset takes effect (42_frame_parser.md R149). -/
def deliveredFrame (dir : Dir) (p : Parser) (checksum : Byte) : Frame where
  kind := p.kind
  payloadLength := p.len
  payload := Memory.readRun p.buf 0 p.len.toNat
  timestamp := match dir with
    | .cmd => none
    | .evt => some p.ts
  checksum := checksum

end Sys2Proof.Machine
end

