-- ==== Sys2Proof/Machine/Flags.lean ====
section
/-! DEFINITION. The block has no condition codes (10_state.md R35). Its flag-like signals are the conditions its
rules test and the codes of its reports (60_exceptions.md R211). -/

namespace Sys2Proof.Machine

/-- `IN_FRAME = (ST != IDLE)`, derived; nothing depends on it as a register (10_state.md R31). -/
def Parser.inFrame (p : Parser) : Bool := decide (p.st ≠ .idle)

/-- Whether a payload length is a length violation: unsigned and strict (42_frame_parser.md R145; 43_frame_encoder.md
R173). -/
def lengthViolates (n : Nat) : Bool := decide (Config.maxPayload < n)

/-- Whether a frame has stayed in progress too long: strict (42_frame_parser.md R151). -/
def timedOut (clockW frameTimeout t0 now : Nat) : Bool := decide (frameTimeout < elapsed clockW t0 now)

/-- The 2-bit code of a report; FRAME has none, and code 0 (UNRECOGNIZED_KIND) is never driven (R211). -/
def Report.code : Report → Option (BitVec 2)
  | .frame _ => none
  | .lengthViolation => some 1
  | .checksumMismatch => some 2
  | .stalled => some 3

end Sys2Proof.Machine
end

