-- ==== Sys2Proof/Machine/FrameParser.lean ====
section
/-! DEFINITION. The Frame Parser: RESET, RX_BYTE (one rule per resident state) and TICK (42_frame_parser.md). -/

namespace Sys2Proof.Machine

/-- RX_BYTE in IDLE: the kind byte (R143). -/
def rxIdle (clockW : Nat) (dir : Dir) (b : Byte) (now : Nat) (p : Parser) : Parser × Option Report :=
  if b ∈ validKinds dir then
    ({ p with kind := b, cks := b, t0 := sampleClock clockW now, st := .lenLow }, none)
  else (p, none)

/-- RX_BYTE in LEN_LOW: the low length byte (R144). -/
def rxLenLow (b : Byte) (p : Parser) : Parser × Option Report :=
  ({ p with len := setLenLow p.len b, cks := p.cks ^^^ b, st := .lenHigh }, none)

/-- RX_BYTE in LEN_HIGH: the high length byte and the length check (R145). -/
def rxLenHigh (dir : Dir) (b : Byte) (p : Parser) : Parser × Option Report :=
  if lengthViolates (joinHalf (lowByte p.len) b).toNat then raiseReport .lengthViolation p
  else
    ({ p with
        len := setLenHigh p.len b
        cks := p.cks ^^^ b
        st := if joinHalf (lowByte p.len) b = 0 then afterPayload dir else .payload }, none)

/-- RX_BYTE in PAYLOAD: one payload byte (R146). -/
def rxPayload (dir : Dir) (b : Byte) (p : Parser) : Parser × Option Report :=
  ({ p with
      buf := Memory.write p.buf p.cnt.toNat b
      cks := p.cks ^^^ b
      cnt := p.cnt + 1
      st := if p.cnt.toNat + 1 = p.len.toNat then afterPayload dir else .payload }, none)

/-- RX_BYTE in TSTAMP: one timestamp byte (R147). -/
def rxTstamp (b : Byte) (p : Parser) : Parser × Option Report :=
  ({ p with
      ts := setTsByte p.ts p.tcnt.toNat b
      cks := p.cks ^^^ b
      tcnt := p.tcnt + 1
      st := if p.tcnt.toNat + 1 = 4 then .checksum else .tstamp }, none)

/-- RX_BYTE in CHECKSUM: the checksum byte (R148, R149). -/
def rxChecksum (dir : Dir) (b : Byte) (p : Parser) : Parser × Option Report :=
  if b = p.cks then (parserReset p, some (.frame (deliveredFrame dir p b)))
  else raiseReport .checksumMismatch p

/-- RX_BYTE: exactly one of the six rules runs (R142). -/
def receiveByte (clockW : Nat) (dir : Dir) (b : Byte) (now : Nat) (p : Parser) : Parser × Option Report :=
  match p.st with
  | .idle => rxIdle clockW dir b now p
  | .lenLow => rxLenLow b p
  | .lenHigh => rxLenHigh dir b p
  | .payload => rxPayload dir b p
  | .tstamp => rxTstamp b p
  | .checksum => rxChecksum dir b p

/-- TICK: the timeout (R151). -/
def tickParser (clockW frameTimeout now : Nat) (p : Parser) : Parser × Option Report :=
  if p.inFrame && timedOut clockW frameTimeout p.t0 now then raiseReport .stalled p else (p, none)

/-- `FEED bytes @now`: one RX_BYTE per byte, one tick per byte (30_encoding.md R89). -/
def feed (clockW : Nat) (dir : Dir) : List Byte → Nat → Parser → Parser × List Report
  | [], _, p => (p, [])
  | b :: rest, now, p =>
    ((feed clockW dir rest (now + 1) (receiveByte clockW dir b now p).1).1,
      (receiveByte clockW dir b now p).2.toList ++ (feed clockW dir rest (now + 1) (receiveByte clockW dir b now p).1).2)

/-- RESET (R150; 70_reset_and_hazards.md R240): `parser_reset()`, no report. -/
def execReset (link : Nat) (s : State) : StepOutcome :=
  onLink link (fun k => (parserReset k.regs, [])) s

/-- RX_BYTE (R142). -/
def execRxByte (link : Nat) (b : Byte) (now : Nat) (s : State) : StepOutcome :=
  onLink link (fun k =>
    ((receiveByte s.params.clockW k.dir b now k.regs).1, (receiveByte s.params.clockW k.dir b now k.regs).2.toList)) s

/-- TICK (R151). -/
def execTick (link now : Nat) (s : State) : StepOutcome :=
  onLink link (fun k =>
    ((tickParser s.params.clockW k.frameTimeout now k.regs).1,
      (tickParser s.params.clockW k.frameTimeout now k.regs).2.toList)) s

/-- The bytes of a frame arrive at a link, one after another (30_encoding.md R89; 44_frame_kinds.md R185). -/
def receiveFrame (link now : Nat) (bytes : List Byte) (s : State) : StepOutcome :=
  onLink link (fun k => feed s.params.clockW k.dir bytes now k.regs) s

end Sys2Proof.Machine
end

