-- ==== Sys2Proof/Machine/CommandKinds.lean ====
section
/-! DEFINITION. The command kinds as instructions: a frame of that kind arrives at a link (44_frame_kinds.md R185 to
R195). The parser treats the kind byte as a member or non-member of VALID_KINDS(DIR) and as data (R185), so every
meaning is the arrival of the frame's bytes; what the command does to a mouse or keyboard is the environment's
(00_scope.md R4). DEDUCED, safe (log 9): the arrival of a whole frame is one step. -/

namespace Sys2Proof.Machine

/-- CMD.MOUSE_MOVE_ABS, kind 0x01 (R186). -/
def execCmdMouseMoveAbs (link now : Nat) (body : CmdBody) (s : State) : StepOutcome :=
  receiveFrame link now (0x01 :: cmdBodyBytes body) s

/-- CMD.MOUSE_MOVE_REL, kind 0x02 (R187). -/
def execCmdMouseMoveRel (link now : Nat) (body : CmdBody) (s : State) : StepOutcome :=
  receiveFrame link now (0x02 :: cmdBodyBytes body) s

/-- CMD.MOUSE_CLICK, kind 0x03 (R188). -/
def execCmdMouseClick (link now : Nat) (body : CmdBody) (s : State) : StepOutcome :=
  receiveFrame link now (0x03 :: cmdBodyBytes body) s

/-- CMD.KEYBOARD_TEXT, kind 0x04 (R189). -/
def execCmdKeyboardText (link now : Nat) (body : CmdBody) (s : State) : StepOutcome :=
  receiveFrame link now (0x04 :: cmdBodyBytes body) s

/-- CMD.KEY_PRESS, kind 0x05 (R190). -/
def execCmdKeyPress (link now : Nat) (body : CmdBody) (s : State) : StepOutcome :=
  receiveFrame link now (0x05 :: cmdBodyBytes body) s

/-- CMD.DELAY, kind 0x06 (R191). -/
def execCmdDelay (link now : Nat) (body : CmdBody) (s : State) : StepOutcome :=
  receiveFrame link now (0x06 :: cmdBodyBytes body) s

/-- CMD.START_RECORDING, kind 0x10 (R192). -/
def execCmdStartRecording (link now : Nat) (body : CmdBody) (s : State) : StepOutcome :=
  receiveFrame link now (0x10 :: cmdBodyBytes body) s

/-- CMD.STOP_RECORDING, kind 0x11 (R193). -/
def execCmdStopRecording (link now : Nat) (body : CmdBody) (s : State) : StepOutcome :=
  receiveFrame link now (0x11 :: cmdBodyBytes body) s

/-- CMD.STATUS_QUERY, kind 0x20 (R194). -/
def execCmdStatusQuery (link now : Nat) (body : CmdBody) (s : State) : StepOutcome :=
  receiveFrame link now (0x20 :: cmdBodyBytes body) s

/-- CMD.RESERVED_FF (R195): the byte 0xFF arrives; a DIR = CMD parser in IDLE discards it, and in any other state
it is ordinary data. -/
def execCmdReservedFf (link now : Nat) (s : State) : StepOutcome :=
  receiveFrame link now [0xFF] s

end Sys2Proof.Machine
end

