-- ==== Sys2Proof/Machine/EventKinds.lean ====
section
/-! DEFINITION. The event kinds as instructions: a frame of that kind arrives at a link (44_frame_kinds.md R185, R196
to R200). DEDUCED, safe (log 9): the arrival of a whole frame is one step. -/

namespace Sys2Proof.Machine

/-- EVT.MOUSE_MOVE, kind 0x01 (R196). -/
def execEvtMouseMove (link now : Nat) (body : EvtBody) (s : State) : StepOutcome :=
  receiveFrame link now (0x01 :: evtBodyBytes body) s

/-- EVT.MOUSE_CLICK, kind 0x02 (R197). -/
def execEvtMouseClick (link now : Nat) (body : EvtBody) (s : State) : StepOutcome :=
  receiveFrame link now (0x02 :: evtBodyBytes body) s

/-- EVT.KEYBOARD_INPUT, kind 0x03 (R198). -/
def execEvtKeyboardInput (link now : Nat) (body : EvtBody) (s : State) : StepOutcome :=
  receiveFrame link now (0x03 :: evtBodyBytes body) s

/-- EVT.STATUS_RESPONSE, kind 0x20 (R199). -/
def execEvtStatusResponse (link now : Nat) (body : EvtBody) (s : State) : StepOutcome :=
  receiveFrame link now (0x20 :: evtBodyBytes body) s

/-- EVT.ERROR, kind 0xFF (R200). -/
def execEvtError (link now : Nat) (body : EvtBody) (s : State) : StepOutcome :=
  receiveFrame link now (0xFF :: evtBodyBytes body) s

end Sys2Proof.Machine
end

