-- ==== Sys2Proof/Machine/FrameEncoder.lean ====
section
/-! DEFINITION. The Frame Encoder: ENC_CMD and ENC_EVT (43_frame_encoder.md). -/

namespace Sys2Proof.Machine

/-- A sequence followed by its checksum: `body ++ { XOR8(body) }` (R171, R172). -/
def withChecksum (body : List Byte) : List Byte := body ++ [xor8 body]

/-- The header `{ kind, n[7:0], n[15:8] }` (R171). -/
def frameHeader (kind : Byte) (payload : List Byte) : List Byte := kind :: lenBytes (countOf payload)

/-- `ENC_CMD(kind, p)`; `none` is the error LENGTH_VIOLATION, with no byte (R171, R173). -/
def encodeCommand (kind : Byte) (payload : List Byte) : Option (List Byte) :=
  if lengthViolates payload.length then none else some (withChecksum (frameHeader kind payload ++ payload))

/-- `ENC_EVT(kind, p, ts)`; the timestamp counts neither in the length field nor toward the limit (R172). -/
def encodeEvent (kind : Byte) (payload : List Byte) (timestamp : Word) : Option (List Byte) :=
  if lengthViolates payload.length then none
  else some (withChecksum (frameHeader kind payload ++ payload ++ timestampBytes timestamp))

/-- What the encoder hands out: the sequence for the transport, or the error to the caller (10_state.md R43;
60_exceptions.md R216). -/
def encoderOutput : Option (List Byte) → Output
  | none => .lengthViolation
  | some sequence => .bytes sequence

/-- ENC_CMD (R171). -/
def execEncCmd (kind : Byte) (payload : List Byte) (s : State) : StepOutcome :=
  answer (encoderOutput (encodeCommand kind payload)) s

/-- ENC_EVT (R172). -/
def execEncEvt (kind : Byte) (payload : List Byte) (timestamp : Word) (s : State) : StepOutcome :=
  answer (encoderOutput (encodeEvent kind payload timestamp)) s

end Sys2Proof.Machine
end

