-- ==== Sys2Proof/Machine/KeyTranslator.lean ====
section
/-! DEFINITION. The Key Translator: the two ROMs as the functions they hold, and SC2VK, VK2NK, SC2NK
(41_key_translator.md). -/

namespace Sys2Proof.Machine

/-- A constant of a contiguous run: the base and an offset (R114, R115, R117, R122, R123). -/
def runCode (base : Byte) (offset : Nat) : Byte := base + BitVec.ofNat 8 offset

/-- Whether a code lies in the run of `n` codes from `base`, compared as unsigned numbers (R125). -/
def inRun (base : Byte) (n : Nat) (code : Byte) : Bool :=
  decide (base.toNat ≤ code.toNat ∧ code.toNat < base.toNat + n)

/-- `ROM_SC2VK[sc]` (R119). -/
def romSc2Vk (k : KeyTab) (sc : Byte) : Byte :=
  if 4 ≤ sc.toNat ∧ sc.toNat ≤ 29 then runCode k.vkA (sc.toNat - 4)
  else if 30 ≤ sc.toNat ∧ sc.toNat ≤ 38 then runCode k.vk0 (sc.toNat - 29)
  else if sc = 39 then k.vk0
  else if sc = 40 then k.vkEnter
  else if sc = 41 then k.vkEscape
  else if sc = 42 then k.vkBackspace
  else if sc = 43 then k.vkTab
  else if sc = 44 then k.vkSpace
  else if 58 ≤ sc.toNat ∧ sc.toNat ≤ 69 then runCode k.vkF1 (sc.toNat - 58)
  else if sc = 82 then k.vkArrow[0]
  else if sc = 83 then k.vkArrow[1]
  else if sc = 84 then k.vkArrow[2]
  else if sc = 85 then k.vkArrow[3]
  else 0x00

/-- `NK_F(n)` for `n` = 1 to 12, by the offset `n - 1` (R121, R124). -/
def nativeFunctionKey (k : KeyTab) (offset : Nat) : Byte := k.nkF.toList.getD offset 0x00

/-- `ROM_VK2NK[vk]` (R125). -/
def romVk2Nk (k : KeyTab) (vk : Byte) : Byte :=
  if inRun k.vkA 26 vk then runCode k.nkA (vk.toNat - k.vkA.toNat)
  else if inRun k.vk0 10 vk then runCode k.nk0 (vk.toNat - k.vk0.toNat)
  else if vk = k.vkEnter then k.nkEnter
  else if vk = k.vkEscape then k.nkEscape
  else if vk = k.vkBackspace then k.nkBackspace
  else if vk = k.vkTab then k.nkTab
  else if vk = k.vkSpace then k.nkSpace
  else if inRun k.vkF1 12 vk then nativeFunctionKey k (vk.toNat - k.vkF1.toNat)
  else if vk = k.vkArrow[0] then k.nkArrow[0]
  else if vk = k.vkArrow[1] then k.nkArrow[1]
  else if vk = k.vkArrow[2] then k.nkArrow[2]
  else if vk = k.vkArrow[3] then k.nkArrow[3]
  else 0x00

/-- The 57 virtual-key constants (R113). -/
def virtualCodes (k : KeyTab) : List Byte :=
  (List.range 26).map (runCode k.vkA) ++ (List.range 10).map (runCode k.vk0)
    ++ [k.vkEnter, k.vkEscape, k.vkBackspace, k.vkTab, k.vkSpace]
    ++ (List.range 12).map (runCode k.vkF1) ++ k.vkArrow.toList

/-- The 57 native-keystroke constants, in the order of `virtualCodes` (R121). -/
def nativeCodes (k : KeyTab) : List Byte :=
  (List.range 26).map (runCode k.nkA) ++ (List.range 10).map (runCode k.nk0)
    ++ [k.nkEnter, k.nkEscape, k.nkBackspace, k.nkTab, k.nkSpace] ++ k.nkF.toList ++ k.nkArrow.toList

/-- The 57 scan codes of the first map's domain (R112). -/
def scanCodes : List Nat :=
  (List.range 26).map (· + 4) ++ (List.range 10).map (· + 30) ++ [40, 41, 42, 43, 44]
    ++ (List.range 12).map (· + 58) ++ [82, 83, 84, 85]

/-- No run of constants passes 0xFF (R128 (b)). -/
def runsFit (k : KeyTab) : Bool :=
  decide (k.vkA.toNat + 25 ≤ 0xFF ∧ k.vk0.toNat + 9 ≤ 0xFF ∧ k.vkF1.toNat + 11 ≤ 0xFF ∧ k.nkA.toNat + 25 ≤ 0xFF
    ∧ k.nk0.toNat + 9 ≤ 0xFF)

/-- The constraints (a), (b) and (d) of R128, which make the two maps what their properties say; (c) is in the form of
`KeyTab`. -/
def keytabWf (k : KeyTab) : Bool :=
  runsFit k && (virtualCodes k).all (fun b => decide (b ≠ 0)) && (nativeCodes k).all (fun b => decide (b ≠ 0))
    && decide (virtualCodes k).Nodup

/-- The native codes of the control, function and arrow keys, but for the space key (R128 (f); 90_conflicts.md C7). -/
def specialNativeCodes (k : KeyTab) : List Byte :=
  [k.nkEnter, k.nkEscape, k.nkBackspace, k.nkTab] ++ k.nkF.toList ++ k.nkArrow.toList

/-- Whether a native code lies in the printable range. PRESUMED, unsafe (log 18): ASCII 0x20 to 0x7E, the spec gives no
numbers. -/
def printable (b : Byte) : Bool := decide (0x20 ≤ b.toNat ∧ b.toNat ≤ 0x7E)

/-- R128 (f): those codes lie outside the printable range. -/
def specialCodesUnprintable (k : KeyTab) : Bool := (specialNativeCodes k).all fun b => !printable b

/-- Whether a KEYTAB satisfies R128: (a), (b) and (d), (f), and (c) by the form of `KeyTab`. (e) is about the device the
codes are for (log 18). -/
def keytabLegal (k : KeyTab) : Bool := keytabWf k && specialCodesUnprintable k

/-- SC2VK (R119): no error, no flag, no state. -/
def execSc2vk (sc : Byte) (s : State) : StepOutcome := answer (.byte (romSc2Vk s.params.keytab sc)) s

/-- VK2NK (R125). -/
def execVk2nk (vk : Byte) (s : State) : StepOutcome := answer (.byte (romVk2Nk s.params.keytab vk)) s

/-- SC2NK: the composition of the two maps (R127). -/
def execSc2nk (sc : Byte) (s : State) : StepOutcome :=
  answer (.byte (romVk2Nk s.params.keytab (romSc2Vk s.params.keytab sc))) s

end Sys2Proof.Machine
end

