-- ==== Sys2Proof/Machine/Dispatch.lean ====
section
/-! DEFINITION. The dispatch: one arm per constructor of Instr, each one call of its meaning. -/

namespace Sys2Proof.Machine

def exec (i : Instr) (s : State) : Host.Outcome State Fault Refusal :=
  match i with
  | .reset link => Sys2Proof.Machine.execReset link s
  | .rxByte link b now => Sys2Proof.Machine.execRxByte link b now s
  | .tick link now => Sys2Proof.Machine.execTick link now s
  | .xor8 bytes => Sys2Proof.Machine.execXor8 bytes s
  | .verify bytes => Sys2Proof.Machine.execVerify bytes s
  | .encCmd kind payload => Sys2Proof.Machine.execEncCmd kind payload s
  | .encEvt kind payload timestamp => Sys2Proof.Machine.execEncEvt kind payload timestamp s
  | .sc2vk sc => Sys2Proof.Machine.execSc2vk sc s
  | .vk2nk vk => Sys2Proof.Machine.execVk2nk vk s
  | .sc2nk sc => Sys2Proof.Machine.execSc2nk sc s
  | .cmdMouseMoveAbs link now body => Sys2Proof.Machine.execCmdMouseMoveAbs link now body s
  | .cmdMouseMoveRel link now body => Sys2Proof.Machine.execCmdMouseMoveRel link now body s
  | .cmdMouseClick link now body => Sys2Proof.Machine.execCmdMouseClick link now body s
  | .cmdKeyboardText link now body => Sys2Proof.Machine.execCmdKeyboardText link now body s
  | .cmdKeyPress link now body => Sys2Proof.Machine.execCmdKeyPress link now body s
  | .cmdDelay link now body => Sys2Proof.Machine.execCmdDelay link now body s
  | .cmdStartRecording link now body => Sys2Proof.Machine.execCmdStartRecording link now body s
  | .cmdStopRecording link now body => Sys2Proof.Machine.execCmdStopRecording link now body s
  | .cmdStatusQuery link now body => Sys2Proof.Machine.execCmdStatusQuery link now body s
  | .cmdReservedFf link now => Sys2Proof.Machine.execCmdReservedFf link now s
  | .evtMouseMove link now body => Sys2Proof.Machine.execEvtMouseMove link now body s
  | .evtMouseClick link now body => Sys2Proof.Machine.execEvtMouseClick link now body s
  | .evtKeyboardInput link now body => Sys2Proof.Machine.execEvtKeyboardInput link now body s
  | .evtStatusResponse link now body => Sys2Proof.Machine.execEvtStatusResponse link now body s
  | .evtError link now body => Sys2Proof.Machine.execEvtError link now body s

end Sys2Proof.Machine
end

