-- ==== Sys2Proof/Machine/Fetch.lean ====
section
/-! DEFINITION. Fetching the next instruction from what the environment has put to the block (10_state.md R40, R45):
the block has no program memory (20_memory.md R64). DESIGN CHOICE (logs 7, 10): the queue and how it is read. -/

namespace Sys2Proof.Machine

/-- What stands at the head of the pending requests. -/
inductive Fetched where
  /-- an instruction, and the state with its bytes taken away -/
  | run (i : Instr) (s : State)
  /-- no event: the block waits -/
  | wait (s : State)
  /-- bytes at the operation port that are no operation -/
  | reject
deriving DecidableEq, Repr

/-- The queue once the first bytes of `r` are taken and `rest` is left of it. Bytes of a stream that are left arrive
one tick per byte later (30_encoding.md R89). -/
def leaveRest (r : Request) (rest : List Byte) (others : List Request) : List Request :=
  match rest with
  | [] => others
  | _ :: _ =>
    { r with
      bytes := rest
      now := match r.format with
        | .op => r.now
        | .cmd => r.now + (r.bytes.length - rest.length)
        | .evt => r.now + (r.bytes.length - rest.length) } :: others

/-- The next instruction. Stream bytes that begin with no whole frame are taken one byte at a time, as the parser
takes them (42_frame_parser.md R140, R143; log 10). A request with no bytes is no event and is taken away (log 7). -/
def fetch (s : State) : Fetched :=
  match s.pending with
  | [] => .wait s
  | r :: others =>
    match decode r with
    | .ok (i, rest) => .run i { s with pending := leaveRest r rest others }
    | .error _ =>
      match r.bytes, r.format with
      | [], _ => .wait { s with pending := others }
      | _ :: _, .op => .reject
      | b :: rest, .cmd => .run (.rxByte r.link b r.now) { s with pending := leaveRest r rest others }
      | b :: rest, .evt => .run (.rxByte r.link b r.now) { s with pending := leaveRest r rest others }

/-- The bytes of a table word's request that its instruction takes, the words' zeros above it cut off. -/
def tableBytes (nbits w link : Nat) : List Byte :=
  match decode (tableRequest nbits w link) with
  | .ok (_, rest) => (tableRequest nbits w link).bytes.take ((tableRequest nbits w link).bytes.length - rest.length)
  | .error _ => (tableRequest nbits w link).bytes

/-- The request that holds a table word's instruction, addressed to link 0. -/
def fetchRequest (nbits w : Nat) : Request := { tableRequest nbits w 0 with bytes := tableBytes nbits w 0 }

end Sys2Proof.Machine
end

