-- ==== Sys2Proof/Machine/Step.lean ====
section
/-! DEFINITION. One step of the block: one event taken from what is pending, and its effect (00_scope.md R17). -/

namespace Sys2Proof.Machine

/-- One step: the next instruction runs as one atomic step. With nothing pending the block waits and its outputs are
quiet (60_exceptions.md R219; 70_reset_and_hazards.md R254; log 7). -/
def step (s : State) : Host.Outcome State Fault Refusal :=
  match fetch s with
  | .run i s' => exec i s'
  | .wait s' => .next { s' with out := .quiet }
  | .reject => .refused .notAnOperation

/-- The state with a word of the opcode table standing where the next step fetches (logs 7, 12). -/
def State.withFetchWord (s : State) (nbits w : Nat) : State :=
  { s with pending := fetchRequest nbits w :: s.pending }

end Sys2Proof.Machine
end

