-- ==== Sys2Proof/Safety.lean ====
section
/-! DEFINITION. What counts as a safe state and a safe step, in the terms the statements use: the invariants of the
registers (10_state.md R25, R28, R29, R32), the constraints on the parameters, and what a delivered frame must be. -/

namespace Sys2Proof.Machine

/-- The registers of an instance agree with one another at the end of a step. The fields named (a) to (f) are those
of R32; the others are what R25, R26, R28, R29 and R52 say of the same registers. -/
structure Parser.Consistent (dir : Dir) (p : Parser) : Prop where
  /-- R32 (a) -/
  idleEmpty : p.st = .idle → p.cnt = 0 ∧ p.tcnt = 0 ∧ p.cks = 0 ∧ p.len = 0 ∧ p.kind = 0 ∧ p.ts = 0
  /-- R32 (b) -/
  lengthBound : p.st = .payload ∨ p.st = .tstamp ∨ p.st = .checksum → p.len.toNat ≤ Config.maxPayload
  /-- R32 (c) -/
  payloadOpen : p.st = .payload → p.cnt.toNat < p.len.toNat
  /-- R32 (d) -/
  payloadFull : p.st = .tstamp ∨ p.st = .checksum → p.cnt.toNat = p.len.toNat
  /-- R32 (e) -/
  tstampOpen : p.st = .tstamp → dir = .evt ∧ p.tcnt.toNat ≤ 3
  /-- R32 (f) -/
  tstampFull : p.st = .checksum → dir = .evt → p.tcnt.toNat = 4
  /-- Nothing of the length has arrived in LEN_LOW. -/
  lengthClear : p.st = .lenLow → p.len = 0
  /-- Only the low byte of the length has arrived in LEN_HIGH (R52). -/
  lengthHighClear : p.st = .lenHigh → highByte p.len = 0
  /-- No payload byte has arrived before PAYLOAD. -/
  payloadClear : p.st = .lenLow ∨ p.st = .lenHigh → p.cnt = 0
  /-- No timestamp byte has arrived before TSTAMP. -/
  timestampClear : p.st = .lenLow ∨ p.st = .lenHigh ∨ p.st = .payload → p.tcnt = 0 ∧ p.ts = 0
  /-- For DIR = CMD both TS and TCNT stay 0 (R28). -/
  commandTimestamp : dir = .cmd → p.tcnt = 0 ∧ p.ts = 0
  /-- R25 -/
  kindValid : p.st ≠ .idle → p.kind ∈ validKinds dir
  /-- R29 -/
  runningChecksum : p.cks = xor8 (rawBytes dir p)
  /-- BUF is in its canonical form. -/
  bufferCanonical : Memory.wf p.buf = true

/-- A link whose registers are consistent and whose T0 fits in CLOCK_W bits (R21). -/
def Link.Consistent (clockW : Nat) (k : Link) : Prop := k.regs.Consistent k.dir ∧ k.regs.t0 < 2 ^ clockW

/-- Every link is consistent. -/
def State.Consistent (s : State) : Prop := ∀ k ∈ s.links, k.Consistent s.params.clockW

/-- The parameters are legal: FRAME_TIMEOUT lies below 2^CLOCK_W (00_scope.md R8), KEYTAB satisfies R128, and
there is a link (R12). -/
def State.ParametersLegal (s : State) : Prop :=
  (∀ k ∈ s.links, k.frameTimeout < 2 ^ s.params.clockW) ∧ keytabLegal s.params.keytab = true ∧ s.links ≠ []

/-- The link an instruction addresses, if any, exists. -/
def State.addresses (s : State) (i : Instr) : Prop := ∀ link, linkOf i = some link → link < s.links.length

/-- The state after the parser of `link`, a link `k`, has the registers `regs` and has emitted `emitted`: every other
part of the state is as before. -/
def State.afterLink (s : State) (link : Nat) (k : Link) (regs : Parser) (emitted : List Report) : State :=
  { s with links := s.links.set link { k with regs := regs }, out := .reports link emitted }

/-- What every delivered frame is (10_state.md R46; 42_frame_parser.md R149): a valid kind, at most MAX_PAYLOAD
payload bytes and exactly `payloadLength` of them, a timestamp exactly when DIR = EVT, and a checksum that is the XOR
of every byte before it. -/
def Frame.Sound (dir : Dir) (f : Frame) : Prop :=
  f.kind ∈ validKinds dir ∧ f.payloadLength.toNat ≤ Config.maxPayload ∧ f.payload.length = f.payloadLength.toNat
    ∧ (f.timestamp.isSome ↔ dir = .evt)
    ∧ f.checksum = xor8 (f.kind :: (lenBytes f.payloadLength ++ f.payload ++ (f.timestamp.map timestampBytes).getD []))

/-- The checksum byte of a command frame (30_encoding.md R70, R77). -/
def commandChecksum (kind : Byte) (payload : List Byte) : Byte :=
  xor8 (kind :: (lenBytes (countOf payload) ++ payload))

/-- The checksum byte of an event frame (30_encoding.md R71, R77). -/
def eventChecksum (kind : Byte) (payload : List Byte) (timestamp : Word) : Byte :=
  xor8 (kind :: (lenBytes (countOf payload) ++ payload ++ timestampBytes timestamp))

/-- A byte with bit `j` flipped. -/
def flipBit (b : Byte) (j : Nat) : Byte := b ^^^ BitVec.ofNat 8 (2 ^ j)

/-- One RX_BYTE after another at a link, each through `exec`, one tick apart, with the reports in order
(30_encoding.md R89). -/
def receiveRun (link : Nat) : List Byte → Nat → State → Option (State × List Report)
  | [], _, s => some (s, [])
  | b :: rest, now, s =>
    match exec (.rxByte link b now) s with
    | .next t => match t.out, receiveRun link rest (now + 1) t with
      | .reports _ emitted, some (u, more) => some (u, emitted ++ more)
      | _, _ => none
    | _ => none

end Sys2Proof.Machine
end

