-- ==== Sys2Proof/Certificates/Slice0/Obligations.lean ====
section
/-! DEFINITION. The statements for the provers. Each is about `exec`, `step`, `decode` or `encode` of the model and
says which rule of spec/ it formalises. A statement that rests on a rule the spec marks as its own derivation, or on a
choice of the model, says so. -/

open Sys2Proof Sys2Proof.Machine

/-! ### Reset and the invariants -/

/-- R39 for the registers it gives a value: right after reset ST is IDLE, KIND, LEN, CNT, TCNT, TS and CKS are 0, and
no report is pending. T0 and BUF are not mentioned: the spec leaves them unspecified. -/
def Obligations.ResetRegistersAreEmpty : Prop :=
  (∀ k ∈ State.reset.links, k.regs.st = .idle ∧ k.regs.kind = 0 ∧ k.regs.len = 0 ∧ k.regs.cnt = 0
    ∧ k.regs.tcnt = 0 ∧ k.regs.ts = 0 ∧ k.regs.cks = 0)
  ∧ State.reset.out = .quiet

/-- The state after reset meets the invariant and its parameters are legal: FRAME_TIMEOUT below 2^CLOCK_W, KEYTAB as R128
demands (its printable range is presumed, log 18), at least one link. That there are two links, CLOCK_W = 32 and the
default KEYTAB are the model's choice at reset (logs 4 to 6). -/
def Obligations.ResetIsConsistent : Prop := State.reset.Consistent ∧ State.reset.ParametersLegal

/-- Every step from a consistent state leads to a consistent state: the invariants (a) to (f) of R32, the running
checksum (R29), the valid kind (R25), the clear timestamp of a command parser (R28), T0 within CLOCK_W bits and the
canonical form of BUF. The spec derives R25 and R32 from its transition rules. -/
def Obligations.StepKeepsConsistency : Prop :=
  ∀ s t : State, s.Consistent → step s = .next t → t.Consistent

/-- No instruction breaks the canonical form of a payload buffer, in any state. The form is the model's (log 2). -/
def Obligations.BufferStaysCanonical : Prop :=
  ∀ (i : Instr) (s t : State), (∀ k ∈ s.links, Memory.wf k.regs.buf = true) → exec i s = .next t →
    ∀ k ∈ t.links, Memory.wf k.regs.buf = true

/-- No step changes a static parameter: CLOCK_W, KEYTAB, the number of links, and DIR and FRAME_TIMEOUT of each (R34). -/
def Obligations.StepKeepsParameters : Prop :=
  ∀ s t : State, step s = .next t → t.params = s.params
    ∧ t.links.map (fun k => (k.dir, k.frameTimeout)) = s.links.map (fun k => (k.dir, k.frameTimeout))

/-- The accumulated raw bytes of a consistent parser are at most 253 (DIR = CMD) or 257 (DIR = EVT), as R33 says,
which the spec marks as derived. -/
def Obligations.RawBytesAreBounded : Prop :=
  ∀ (dir : Dir) (p : Parser), p.Consistent dir →
    (rawBytes dir p).length ≤ (match dir with | .cmd => 253 | .evt => 257)

/-! ### Encodings -/

/-- Decoding the encoding of a well-formed instruction gives it back. For frames the encoding is that of R70 and R71;
for operations the operand layout is the model's (log 8). -/
def Obligations.DecodeOfEncode : Prop :=
  ∀ i : Instr, WellFormed i = true → decode (encode i) = .ok (i, [])

/-- Whatever is decoded is well formed, is of the stream it was read from, carries that request's link and clock value,
and its own encoding is exactly the bytes that were taken: no bit is dropped and no other bytes are read as it. -/
def Obligations.DecodedBytesAreItsEncoding : Prop :=
  ∀ (r : Request) (i : Instr) (rest : List Byte), decode r = .ok (i, rest) →
    WellFormed i = true ∧ formatOf i = r.format ∧ (encode i).bytes ++ rest = r.bytes
    ∧ (∀ link, linkOf i = some link → link = r.link) ∧ (∀ now, nowOf i = some now → now = r.now)

/-- A frame ends by position only: whatever follows a frame in the stream is left over (R73, R74; the spec marks R73 as
derived). -/
def Obligations.FrameEndIsFoundByPosition : Prop :=
  ∀ (i : Instr) (rest : List Byte), WellFormed i = true → formatOf i ≠ .op →
    decode { encode i with bytes := (encode i).bytes ++ rest } = .ok (i, rest)

/-- No frame begins with a byte outside the kinds of its direction (R78, R82), and 0xFF in the command direction is
read as the reserved code alone (R81). -/
def Obligations.IllegalKindsBeginNoFrame : Prop :=
  ∀ (link now : Nat) (b : Byte) (rest : List Byte),
    (b ∉ validKinds .cmd → b ≠ 0xFF → decode ⟨.cmd, link, now, b :: rest⟩ = .error .illegalKind)
    ∧ decode ⟨.cmd, link, now, 0xFF :: rest⟩ = .ok (.cmdReservedFf link now, rest)
    ∧ (b ∉ validKinds .evt → decode ⟨.evt, link, now, b :: rest⟩ = .error .illegalKind)

/-- Words written out from the spec decode to the instruction they stand for: E1 to E3 of 95_test_vectors.md, the
worked examples of R195, R199 and R190, and operations by their index (R86; operand layout: log 8). -/
def Obligations.SpecWordsDecode : Prop :=
  decode ⟨.cmd, 0, 7, [0x10, 0x00, 0x00, 0x10]⟩ = .ok (.cmdStartRecording 0 7 (.whole [] 0x10), [])
  ∧ decode ⟨.cmd, 0, 7, [0x05, 0x01, 0x00, 0x04, 0x00]⟩ = .ok (.cmdKeyPress 0 7 (.whole [0x04] 0x00), [])
  ∧ decode ⟨.cmd, 0, 7, [0x01, 0xFF, 0x01]⟩ = .ok (.cmdMouseMoveAbs 0 7 (.overlong 511), [])
  ∧ decode ⟨.cmd, 0, 7, [0xFF]⟩ = .ok (.cmdReservedFf 0 7, [])
  ∧ decode ⟨.evt, 1, 7, [0x01, 0x04, 0x00, 0x00, 0x64, 0x00, 0xC8, 0x39, 0x30, 0x00, 0x00, 0xA0]⟩
      = .ok (.evtMouseMove 1 7 (.whole [0x00, 0x64, 0x00, 0xC8] 12345 0xA0), [])
  ∧ decode ⟨.evt, 1, 7, [0x20, 0x01, 0x00, 0x01, 0xEF, 0xBE, 0xAD, 0xDE, 0x02]⟩
      = .ok (.evtStatusResponse 1 7 (.whole [0x01] 0xDEADBEEF 0x02), [])
  ∧ decode ⟨.op, 0, 7, [0x02]⟩ = .ok (.tick 0 7, [])
  ∧ decode ⟨.op, 0, 7, [0x09, 0x27]⟩ = .ok (.sc2nk 0x27, [])

/-! ### The step -/

/-- When the bytes at the head of what is pending decode to an instruction, the step is that instruction's effect on
the state with those bytes taken away. The queue is the model's (log 7). -/
def Obligations.StepRunsDecodedInstruction : Prop :=
  ∀ (s : State) (r : Request) (others : List Request) (i : Instr) (rest : List Byte),
    s.pending = r :: others → decode r = .ok (i, rest) →
      step s = exec i { s with pending := leaveRest r rest others }

/-- A stream byte that begins no whole frame is received as that one byte (R140; log 10). -/
def Obligations.StepReceivesUnframedByte : Prop :=
  ∀ (s : State) (r : Request) (others : List Request) (b : Byte) (rest : List Byte) (e : Reject),
    s.pending = r :: others → r.format ≠ .op → r.bytes = b :: rest → decode r = .error e →
      step s = exec (.rxByte r.link b r.now) { s with pending := leaveRest r rest others }

/-- With nothing pending the block waits, and the report of an earlier step is gone (R219; the waiting step is the
model's, log 7). A request at the head that holds no bytes is no event either: it is taken away and the block waits. -/
def Obligations.StepWithoutEventWaits : Prop :=
  ∀ s : State, (s.pending = [] → step s = .next { s with out := .quiet })
    ∧ (∀ (r : Request) (others : List Request), s.pending = r :: others → r.bytes = [] →
      step s = .next { s with pending := others, out := .quiet })

/-- Bytes at the operation port that decode to no operation are refused by name (model's choice, log 16): those whose
first byte is above 0x09, and those that end before their operands do (layout: log 8). -/
def Obligations.StepRefusesNonOperation : Prop :=
  ∀ (s : State) (r : Request) (others : List Request) (b : Byte) (rest : List Byte),
    s.pending = r :: others → r.format = .op → r.bytes = b :: rest →
    (∀ e : Reject, decode r = .error e → step s = .refused .notAnOperation)
    ∧ (9 < b.toNat → decode r = .error .illegalOperation)
    ∧ (b ∈ ([0x01, 0x07, 0x08, 0x09] : List Byte) → rest = [] → decode r = .error .truncated)
    ∧ (b = 0x05 → rest.length < 3 → decode r = .error .truncated)
    ∧ (∀ (kind low high : Byte) (payload : List Byte), b = 0x05 → rest = [kind, low, high] ++ payload →
      payload.length < low.toNat + 256 * high.toNat → decode r = .error .truncated)
    ∧ (b = 0x06 → rest.length < 7 → decode r = .error .truncated)
    ∧ (∀ (kind t0 t1 t2 t3 low high : Byte) (payload : List Byte), b = 0x06 →
      rest = [kind, t0, t1, t2, t3, low, high] ++ payload →
      payload.length < low.toNat + 256 * high.toNat → decode r = .error .truncated)

/-- Every instruction whose link exists completes: the block is never stuck (R254, R42: the step never refuses). The
spec marks R254 as derived. -/
def Obligations.EveryInstructionCompletes : Prop :=
  ∀ (i : Instr) (s : State), s.addresses i → ∃ t, exec i s = .next t

/-- An event to a link the machine does not have faults by name (model's choice, log 14). -/
def Obligations.MissingLinkFaults : Prop :=
  ∀ (i : Instr) (s : State) (link : Nat), linkOf i = some link → s.links.length ≤ link →
    exec i s = .fault .noSuchLink

/-! ### RESET, RX_BYTE, TICK -/

/-- R150: RESET empties the parser in any state and emits no report; T0, BUF, the other links, the parameters and what
is pending stay. -/
def Obligations.ResetOperationEmptiesParser : Prop :=
  ∀ (s : State) (link : Nat) (k : Link), s.links[link]? = some k →
    exec (.reset link) s = .next (s.afterLink link k
      { st := .idle, kind := 0, len := 0, cnt := 0, buf := k.regs.buf, ts := 0, tcnt := 0, cks := 0, t0 := k.regs.t0 } [])

/-- R143: in IDLE a byte of VALID_KINDS(DIR) (R78) is taken as the kind byte; any other changes nothing. No report. -/
def Obligations.RxByteInIdleTakesKind : Prop :=
  ∀ (s : State) (link : Nat) (k : Link) (b : Byte) (now : Nat),
    s.links[link]? = some k → k.regs.st = .idle →
    exec (.rxByte link b now) s = .next (s.afterLink link k
      (if b ∈ (match k.dir with
          | .cmd => ([0x01, 0x02, 0x03, 0x04, 0x05, 0x06, 0x10, 0x11, 0x20] : List Byte)
          | .evt => [0x01, 0x02, 0x03, 0x20, 0xFF])
        then { k.regs with kind := b, cks := b, t0 := now % 2 ^ s.params.clockW, st := .lenLow }
        else k.regs) [])

/-- R144: in LEN_LOW the byte is stored as LEN[7:0], whatever it is. No report. -/
def Obligations.RxByteInLenLowStoresByte : Prop :=
  ∀ (s : State) (link : Nat) (k : Link) (b : Byte) (now : Nat),
    s.links[link]? = some k → k.regs.st = .lenLow →
    exec (.rxByte link b now) s = .next (s.afterLink link k
      { k.regs with
        len := BitVec.ofNat 16 (k.regs.len.toNat / 256 * 256 + b.toNat)
        cks := k.regs.cks ^^^ b
        st := .lenHigh } [])

/-- R145: in LEN_HIGH the length is low | (high << 8); above 250 the frame is abandoned with a report, 0 skips PAYLOAD.
The target TSTAMP is the spec's decision D3. -/
def Obligations.RxByteInLenHighChecksLength : Prop :=
  ∀ (s : State) (link : Nat) (k : Link) (b : Byte) (now : Nat),
    s.links[link]? = some k → k.regs.st = .lenHigh →
    exec (.rxByte link b now) s = .next (
      if 250 < k.regs.len.toNat % 256 + 256 * b.toNat then
        s.afterLink link k (parserReset k.regs) [.lengthViolation]
      else s.afterLink link k
        { k.regs with
          len := BitVec.ofNat 16 (k.regs.len.toNat % 256 + 256 * b.toNat)
          cks := k.regs.cks ^^^ b
          st := if k.regs.len.toNat % 256 + 256 * b.toNat = 0 then (if k.dir = .evt then .tstamp else .checksum)
                else .payload } [])

/-- R146: in PAYLOAD the byte is stored at BUF[CNT]; the last one leads on to TSTAMP or CHECKSUM. CNT is an address of
BUF, as it is in every consistent state. No report. The target TSTAMP is the spec's decision D3. -/
def Obligations.RxByteInPayloadStoresByte : Prop :=
  ∀ (s : State) (link : Nat) (k : Link) (b : Byte) (now : Nat),
    s.links[link]? = some k → k.regs.st = .payload → k.regs.cnt.toNat < 250 →
    exec (.rxByte link b now) s = .next (s.afterLink link k
      { k.regs with
        buf := Memory.write k.regs.buf k.regs.cnt.toNat b
        cks := k.regs.cks ^^^ b
        cnt := BitVec.ofNat 8 (k.regs.cnt.toNat + 1)
        st := if k.regs.cnt.toNat + 1 = k.regs.len.toNat then (if k.dir = .evt then .tstamp else .checksum)
              else .payload } [])

/-- What RX_BYTE does to the buffer of its link, read byte by byte (R57): in PAYLOAD the byte at CNT becomes the byte
received and no other changes; in every other state no byte changes. -/
def Obligations.RxByteStoresAtCntOnly : Prop :=
  ∀ (s t : State) (link : Nat) (k k' : Link) (b : Byte) (now : Nat),
    s.links[link]? = some k → exec (.rxByte link b now) s = .next t → t.links[link]? = some k' →
    (∀ addr, ¬(k.regs.st = .payload ∧ addr = k.regs.cnt.toNat) →
      Memory.read k'.regs.buf addr = Memory.read k.regs.buf addr)
    ∧ (k.regs.st = .payload → k.regs.cnt.toNat < 250 → Memory.wf k.regs.buf = true →
      Memory.read k'.regs.buf k.regs.cnt.toNat = b)

/-- Section 2 of 42_frame_parser.md, TSTAMP, a rule that is the spec's own decision D3: the byte becomes byte TCNT of TS,
least significant first, and the fourth leads on to CHECKSUM. TCNT is at most 3, as it is in every consistent state in
TSTAMP. No report. -/
def Obligations.RxByteInTstampStoresByte : Prop :=
  ∀ (s : State) (link : Nat) (k : Link) (b : Byte) (now : Nat),
    s.links[link]? = some k → k.regs.st = .tstamp → k.regs.tcnt.toNat ≤ 3 →
    ∃ ts : Word,
      (∀ j < 4, wordByte j ts = if j = k.regs.tcnt.toNat then b else wordByte j k.regs.ts)
      ∧ exec (.rxByte link b now) s = .next (s.afterLink link k
        { k.regs with
          ts := ts
          cks := k.regs.cks ^^^ b
          tcnt := BitVec.ofNat 3 (k.regs.tcnt.toNat + 1)
          st := if k.regs.tcnt.toNat = 3 then .checksum else .tstamp } [])

/-- R148: in CHECKSUM a byte equal to CKS delivers the frame, its payload read from BUF[0] to BUF[LEN-1]; any other is
a mismatch. Either way the parser is reset in the same step and exactly one report is emitted. -/
def Obligations.RxByteInChecksumDecides : Prop :=
  ∀ (s : State) (link : Nat) (k : Link) (b : Byte) (now : Nat),
    s.links[link]? = some k → k.regs.st = .checksum →
    exec (.rxByte link b now) s = .next (s.afterLink link k (parserReset k.regs)
      [if b = k.regs.cks then .frame
          { kind := k.regs.kind
            payloadLength := k.regs.len
            payload := (List.range k.regs.len.toNat).map (Memory.read k.regs.buf)
            timestamp := if k.dir = .evt then some k.regs.ts else none
            checksum := b }
        else .checksumMismatch])

/-- R151: TICK abandons a frame in progress whose age, modulo 2^CLOCK_W, is above FRAME_TIMEOUT, and changes nothing
else. In IDLE it never fires. The strict comparison and the modulus are the spec's decisions D9 and D10. -/
def Obligations.TickAbandonsStalledFrame : Prop :=
  ∀ (s : State) (link : Nat) (k : Link) (now : Nat), s.links[link]? = some k →
    exec (.tick link now) s = .next (
      if k.regs.st ≠ .idle
          ∧ (k.frameTimeout : Int) < ((now : Int) - (k.regs.t0 : Int)) % (2 : Int) ^ s.params.clockW then
        s.afterLink link k (parserReset k.regs) [.stalled]
      else s.afterLink link k k.regs [])

/-- The largest value of FRAME_TIMEOUT disables the timeout: no TICK ever fires (R8). -/
def Obligations.LargestTimeoutNeverFires : Prop :=
  ∀ (s : State) (link : Nat) (k : Link) (now : Nat), s.links[link]? = some k →
    k.frameTimeout + 1 = 2 ^ s.params.clockW →
    exec (.tick link now) s = .next (s.afterLink link k k.regs [])

/-- RX_BYTE and TICK emit at most one report and RESET none (R42). -/
def Obligations.AtMostOneReportPerEvent : Prop :=
  ∀ (s t : State) (link : Nat) (b : Byte) (now : Nat),
    (exec (.rxByte link b now) s = .next t ∨ exec (.tick link now) s = .next t →
      ∃ emitted, t.out = .reports link emitted ∧ emitted.length ≤ 1)
    ∧ (exec (.reset link) s = .next t → t.out = .reports link [])

/-- Any number of bytes that are no valid kinds leaves an idle parser as it is, with no report (R212, R143). -/
def Obligations.NoiseInIdleIsDiscarded : Prop :=
  ∀ (bytes : List Byte) (s : State) (link : Nat) (k : Link) (now : Nat),
    s.links[link]? = some k → k.regs.st = .idle → (∀ b ∈ bytes, b ∉ validKinds k.dir) →
    ∃ t, receiveRun link bytes now s = some (t, []) ∧ t.links = s.links

/-! ### The Checksum Unit -/

/-- R100: XOR8 completes with the running XOR of its bytes, seeded at 0, and changes nothing else. -/
def Obligations.Xor8FoldsItsBytes : Prop :=
  ∀ (bytes : List Byte) (s : State),
    exec (.xor8 bytes) s = .next { s with out := .byte (bytes.foldl (fun acc b => acc ^^^ b) 0x00) }

/-- Each bit of XOR8 is the parity of that bit over all bytes, as R101 says, which the spec marks as derived. -/
def Obligations.Xor8BitIsParity : Prop :=
  ∀ (bytes : List Byte) (s : State), ∃ v : Byte, exec (.xor8 bytes) s = .next { s with out := .byte v }
    ∧ ∀ j < 8, v.getLsbD j = decide (bytes.countP (fun b => b.getLsbD j) % 2 = 1)

/-- The streaming law of R102, which the spec marks as derived: XOR8 of a concatenation is the XOR of the parts. -/
def Obligations.Xor8StreamsOverConcatenation : Prop :=
  ∀ (front back : List Byte) (s : State), ∃ v w : Byte,
    exec (.xor8 front) s = .next { s with out := .byte v }
    ∧ exec (.xor8 back) s = .next { s with out := .byte w }
    ∧ exec (.xor8 (front ++ back)) s = .next { s with out := .byte (v ^^^ w) }

/-- R104: VERIFY is false of the empty sequence and else compares the XOR of all bytes but the last with the last,
which is the same as the XOR of all bytes being 0. Nothing else changes. That it is false of the empty sequence is the
spec's decision D17. -/
def Obligations.VerifyComparesLastByte : Prop :=
  ∀ (body : List Byte) (last : Byte) (s : State),
    exec (.verify []) s = .next { s with out := .truth false }
    ∧ exec (.verify (body ++ [last])) s
        = .next { s with out := .truth (decide (body.foldl (fun acc b => acc ^^^ b) 0x00 = last)) }
    ∧ (body.foldl (fun acc b => acc ^^^ b) 0x00 = last ↔ xor8 (body ++ [last]) = 0x00)

/-! ### The Frame Encoder -/

/-- R171: ENC_CMD returns kind, lenLow, lenHigh, payload and the XOR of all of these, for a payload of at most 250
bytes and any kind, and the length violation with no byte for a longer one. Nothing else changes. -/
def Obligations.EncCmdBuildsFrame : Prop :=
  ∀ (kind : Byte) (payload : List Byte) (s : State),
    exec (.encCmd kind payload) s = .next { s with out := (if payload.length ≤ 250 then
        Output.bytes ([kind, BitVec.ofNat 8 payload.length, 0x00] ++ payload
          ++ [xor8 ([kind, BitVec.ofNat 8 payload.length, 0x00] ++ payload)])
      else Output.lengthViolation) }

/-- R172: ENC_EVT returns kind, lenLow, lenHigh, payload, the four timestamp bytes, least significant first, and the
XOR of all of these; the timestamp counts neither in the length nor toward the limit. Nothing else changes. -/
def Obligations.EncEvtBuildsFrame : Prop :=
  ∀ (kind : Byte) (payload : List Byte) (timestamp : Word) (s : State),
    exec (.encEvt kind payload timestamp) s = .next { s with out := (if payload.length ≤ 250 then
        Output.bytes ([kind, BitVec.ofNat 8 payload.length, 0x00] ++ payload
          ++ [BitVec.ofNat 8 timestamp.toNat, BitVec.ofNat 8 (timestamp.toNat / 2 ^ 8),
              BitVec.ofNat 8 (timestamp.toNat / 2 ^ 16), BitVec.ofNat 8 (timestamp.toNat / 2 ^ 24)]
          ++ [xor8 ([kind, BitVec.ofNat 8 payload.length, 0x00] ++ payload
              ++ [BitVec.ofNat 8 timestamp.toNat, BitVec.ofNat 8 (timestamp.toNat / 2 ^ 8),
                  BitVec.ofNat 8 (timestamp.toNat / 2 ^ 16), BitVec.ofNat 8 (timestamp.toNat / 2 ^ 24)])])
      else Output.lengthViolation) }

/-- Every frame the encoder returns is 4 + n or 8 + n bytes long, has lenHigh = 0, XORs to 0 and passes VERIFY (R105;
R174, which the spec marks as derived). -/
def Obligations.EncodedFramesVerify : Prop :=
  ∀ (kind : Byte) (payload : List Byte) (timestamp : Word) (s : State), payload.length ≤ 250 →
    ∃ command event : List Byte,
      exec (.encCmd kind payload) s = .next { s with out := .bytes command }
      ∧ exec (.encEvt kind payload timestamp) s = .next { s with out := .bytes event }
      ∧ command.length = 4 + payload.length ∧ event.length = 8 + payload.length
      ∧ command[2]? = some 0x00 ∧ event[2]? = some 0x00
      ∧ xor8 command = 0x00 ∧ xor8 event = 0x00
      ∧ exec (.verify command) s = .next { s with out := .truth true }
      ∧ exec (.verify event) s = .next { s with out := .truth true }

/-! ### The Key Translator -/

/-- R119: the first map, row by row, for every KEYTAB; the ten clauses cover every scan code, and 39 is the digit 0. -/
def Obligations.Sc2vkFollowsItsTable : Prop :=
  ∀ s : State,
    (∀ n, 4 ≤ n → n ≤ 29 → exec (.sc2vk (BitVec.ofNat 8 n)) s
      = .next { s with out := .byte (s.params.keytab.vkA + BitVec.ofNat 8 (n - 4)) })
    ∧ (∀ n, 30 ≤ n → n ≤ 38 → exec (.sc2vk (BitVec.ofNat 8 n)) s
      = .next { s with out := .byte (s.params.keytab.vk0 + BitVec.ofNat 8 (n - 29)) })
    ∧ exec (.sc2vk 39) s = .next { s with out := .byte s.params.keytab.vk0 }
    ∧ exec (.sc2vk 40) s = .next { s with out := .byte s.params.keytab.vkEnter }
    ∧ exec (.sc2vk 41) s = .next { s with out := .byte s.params.keytab.vkEscape }
    ∧ exec (.sc2vk 42) s = .next { s with out := .byte s.params.keytab.vkBackspace }
    ∧ exec (.sc2vk 43) s = .next { s with out := .byte s.params.keytab.vkTab }
    ∧ exec (.sc2vk 44) s = .next { s with out := .byte s.params.keytab.vkSpace }
    ∧ (∀ n, 58 ≤ n → n ≤ 69 → exec (.sc2vk (BitVec.ofNat 8 n)) s
      = .next { s with out := .byte (s.params.keytab.vkF1 + BitVec.ofNat 8 (n - 58)) })
    ∧ (∀ j : Fin 4, exec (.sc2vk (BitVec.ofNat 8 (82 + j.val))) s
      = .next { s with out := .byte (s.params.keytab.vkArrow.get j) })
    ∧ (∀ sc : Byte, sc.toNat < 4 ∨ (44 < sc.toNat ∧ sc.toNat < 58) ∨ (69 < sc.toNat ∧ sc.toNat < 82) ∨ 85 < sc.toNat →
      exec (.sc2vk sc) s = .next { s with out := .byte 0x00 })

/-- Under the constraints of R128 the first map is non-zero exactly on its 57 scan codes, and injective there, as R120
says, which the spec marks as derived. -/
def Obligations.Sc2vkDomain : Prop :=
  ∀ (s : State) (sc sc' : Byte), keytabWf s.params.keytab = true →
    ∃ vk vk' : Byte,
      exec (.sc2vk sc) s = .next { s with out := .byte vk }
      ∧ exec (.sc2vk sc') s = .next { s with out := .byte vk' }
      ∧ (vk ≠ 0x00 ↔ sc.toNat ∈ scanCodes)
      ∧ (vk ≠ 0x00 → vk = vk' → sc = sc')

/-- R125: the second map, row by row, for every KEYTAB that meets R128; whatever is none of the 57 constants gives 0
(the spec's decision D22). -/
def Obligations.Vk2nkFollowsItsTable : Prop :=
  ∀ s : State, keytabWf s.params.keytab = true →
    (∀ i < 26, exec (.vk2nk (s.params.keytab.vkA + BitVec.ofNat 8 i)) s
      = .next { s with out := .byte (s.params.keytab.nkA + BitVec.ofNat 8 i) })
    ∧ (∀ d < 10, exec (.vk2nk (s.params.keytab.vk0 + BitVec.ofNat 8 d)) s
      = .next { s with out := .byte (s.params.keytab.nk0 + BitVec.ofNat 8 d) })
    ∧ exec (.vk2nk s.params.keytab.vkEnter) s = .next { s with out := .byte s.params.keytab.nkEnter }
    ∧ exec (.vk2nk s.params.keytab.vkEscape) s = .next { s with out := .byte s.params.keytab.nkEscape }
    ∧ exec (.vk2nk s.params.keytab.vkBackspace) s = .next { s with out := .byte s.params.keytab.nkBackspace }
    ∧ exec (.vk2nk s.params.keytab.vkTab) s = .next { s with out := .byte s.params.keytab.nkTab }
    ∧ exec (.vk2nk s.params.keytab.vkSpace) s = .next { s with out := .byte s.params.keytab.nkSpace }
    ∧ (∀ n : Fin 12, exec (.vk2nk (s.params.keytab.vkF1 + BitVec.ofNat 8 n.val)) s
      = .next { s with out := .byte (s.params.keytab.nkF.get n) })
    ∧ (∀ j : Fin 4, exec (.vk2nk (s.params.keytab.vkArrow.get j)) s
      = .next { s with out := .byte (s.params.keytab.nkArrow.get j) })
    ∧ (∀ vk, vk ∉ virtualCodes s.params.keytab → exec (.vk2nk vk) s = .next { s with out := .byte 0x00 })

/-- Under the constraints of R128 the second map is non-zero exactly on the 57 virtual-key constants, as R126 says,
which the spec marks as derived. -/
def Obligations.Vk2nkDomain : Prop :=
  ∀ (s : State) (vk : Byte), keytabWf s.params.keytab = true →
    ∃ nk : Byte, exec (.vk2nk vk) s = .next { s with out := .byte nk }
      ∧ (nk ≠ 0x00 ↔ vk ∈ virtualCodes s.params.keytab)

/-- R127: SC2NK completes with VK2NK of SC2VK, and under the constraints of R128 its result is non-zero exactly on the
57 scan codes; outside them the first stage gives 0, and where it does so does the whole. -/
def Obligations.Sc2nkComposesTheMaps : Prop :=
  ∀ (s : State) (sc : Byte), ∃ vk nk : Byte,
    exec (.sc2vk sc) s = .next { s with out := .byte vk }
    ∧ exec (.vk2nk vk) s = .next { s with out := .byte nk }
    ∧ exec (.sc2nk sc) s = .next { s with out := .byte nk }
    ∧ (sc.toNat ∉ scanCodes → vk = 0x00)
    ∧ (keytabWf s.params.keytab = true →
      (nk ≠ 0x00 ↔ sc.toNat ∈ ([4, 5, 6, 7, 8, 9, 10, 11, 12, 13, 14, 15, 16, 17, 18, 19, 20, 21, 22, 23, 24, 25, 26, 27,
        28, 29, 30, 31, 32, 33, 34, 35, 36, 37, 38, 39, 40, 41, 42, 43, 44, 58, 59, 60, 61, 62, 63, 64, 65, 66, 67,
        68, 69, 82, 83, 84, 85] : List Nat))
      ∧ (vk = 0x00 → nk = 0x00))

/-- In a legal KEYTAB the second map takes the control keys but the space key, the function keys and the arrow keys to
codes outside the printable range: R124 and R128 (f), with the space key excepted by C7 of 90_conflicts.md. The numbers
of the range are presumed (log 18). -/
def Obligations.SpecialKeysGiveUnprintableCodes : Prop :=
  ∀ (s : State) (vk : Byte), keytabLegal s.params.keytab = true →
    vk ∈ [s.params.keytab.vkEnter, s.params.keytab.vkEscape, s.params.keytab.vkBackspace, s.params.keytab.vkTab]
      ++ (List.range 12).map (fun n => s.params.keytab.vkF1 + BitVec.ofNat 8 n) ++ s.params.keytab.vkArrow.toList →
    ∃ nk : Byte, exec (.vk2nk vk) s = .next { s with out := .byte nk } ∧ (nk.toNat < 0x20 ∨ 0x7E < nk.toNat)

/-! ### The frame kinds -/

/-- A well-formed command frame with its right checksum that arrives at an idle DIR = CMD parser is delivered, for each
of the nine kinds (R185; R186 to R194): exactly one report, the FRAME with the kind and the payload; the parser is idle
again, the payload stands in BUF, T0 is the clock value at the kind byte, and nothing else changes. That the arrival is
one step is the model's (log 9). -/
def Obligations.CommandFrameIsDelivered : Prop :=
  ∀ (s : State) (link : Nat) (k : Link) (now : Nat) (payload : List Byte),
    s.links[link]? = some k → k.dir = .cmd → k.regs.Consistent .cmd → k.regs.st = .idle →
    payload.length ≤ Config.maxPayload →
    ∀ e ∈ [(Instr.cmdMouseMoveAbs, (0x01 : Byte)), (Instr.cmdMouseMoveRel, 0x02), (Instr.cmdMouseClick, 0x03),
        (Instr.cmdKeyboardText, 0x04), (Instr.cmdKeyPress, 0x05), (Instr.cmdDelay, 0x06),
        (Instr.cmdStartRecording, 0x10), (Instr.cmdStopRecording, 0x11), (Instr.cmdStatusQuery, 0x20)],
      exec (e.1 link now (.whole payload (commandChecksum e.2 payload))) s = .next (s.afterLink link k
        { k.regs with t0 := now % 2 ^ s.params.clockW, buf := Memory.writeRun k.regs.buf 0 payload }
        [.frame { kind := e.2, payloadLength := countOf payload, payload := payload, timestamp := none,
                  checksum := commandChecksum e.2 payload }])

/-- A well-formed event frame with its right checksum that arrives at an idle DIR = EVT parser is delivered with its
timestamp, for each of the five kinds (R185; R196 to R200); else as for command frames (log 9). -/
def Obligations.EventFrameIsDelivered : Prop :=
  ∀ (s : State) (link : Nat) (k : Link) (now : Nat) (payload : List Byte) (timestamp : Word),
    s.links[link]? = some k → k.dir = .evt → k.regs.Consistent .evt → k.regs.st = .idle →
    payload.length ≤ Config.maxPayload →
    ∀ e ∈ [(Instr.evtMouseMove, (0x01 : Byte)), (Instr.evtMouseClick, 0x02), (Instr.evtKeyboardInput, 0x03),
        (Instr.evtStatusResponse, 0x20), (Instr.evtError, 0xFF)],
      exec (e.1 link now (.whole payload timestamp (eventChecksum e.2 payload timestamp))) s = .next (s.afterLink link k
        { k.regs with t0 := now % 2 ^ s.params.clockW, buf := Memory.writeRun k.regs.buf 0 payload }
        [.frame { kind := e.2, payloadLength := countOf payload, payload := payload, timestamp := some timestamp,
                  checksum := eventChecksum e.2 payload timestamp }])

/-- The reserved code 0xFF arriving at an idle DIR = CMD parser is discarded, no report, nothing changes, and its
four-byte frame is discarded whole; the encoder encodes it (R195). In any state and direction it is received as the byte
0xFF: that the row is one byte, and that its arrival is that byte's reception whatever DIR is, are the model's (logs 11
and 9). -/
def Obligations.ReservedCommandCodeIsDiscarded : Prop :=
  ∀ (s : State) (link : Nat) (k : Link) (now : Nat), s.links[link]? = some k →
    (k.dir = .cmd → k.regs.st = .idle →
      exec (.cmdReservedFf link now) s = .next { s with out := .reports link [] }
      ∧ receiveRun link [0xFF, 0x00, 0x00, 0xFF] now s = some ({ s with out := .reports link [] }, []))
    ∧ exec (.cmdReservedFf link now) s = exec (.rxByte link 0xFF now) s
    ∧ exec (.encCmd 0xFF []) s = .next { s with out := .bytes [0xFF, 0x00, 0x00, 0xFF] }

/-- A frame whose checksum byte is not the XOR of the bytes before it is never delivered: at an idle parser of its
direction its arrival reports the mismatch and nothing else, for every kind (R148, R214). The arrival
in one step is the model's (log 9). -/
def Obligations.WrongChecksumIsRejected : Prop :=
  ∀ (s : State) (link : Nat) (k : Link) (now : Nat) (payload : List Byte) (timestamp : Word) (checksum : Byte),
    s.links[link]? = some k → k.regs.Consistent k.dir → k.regs.st = .idle → payload.length ≤ Config.maxPayload →
    (k.dir = .cmd → ∀ e ∈ [(Instr.cmdMouseMoveAbs, (0x01 : Byte)), (Instr.cmdMouseMoveRel, 0x02),
        (Instr.cmdMouseClick, 0x03), (Instr.cmdKeyboardText, 0x04), (Instr.cmdKeyPress, 0x05), (Instr.cmdDelay, 0x06),
        (Instr.cmdStartRecording, 0x10), (Instr.cmdStopRecording, 0x11), (Instr.cmdStatusQuery, 0x20)],
      checksum ≠ commandChecksum e.2 payload →
      exec (e.1 link now (.whole payload checksum)) s = .next (s.afterLink link k
        { k.regs with t0 := now % 2 ^ s.params.clockW, buf := Memory.writeRun k.regs.buf 0 payload }
        [.checksumMismatch]))
    ∧ (k.dir = .evt → ∀ e ∈ [(Instr.evtMouseMove, (0x01 : Byte)), (Instr.evtMouseClick, 0x02),
        (Instr.evtKeyboardInput, 0x03), (Instr.evtStatusResponse, 0x20), (Instr.evtError, 0xFF)],
      checksum ≠ eventChecksum e.2 payload timestamp →
      exec (e.1 link now (.whole payload timestamp checksum)) s = .next (s.afterLink link k
        { k.regs with t0 := now % 2 ^ s.params.clockW, buf := Memory.writeRun k.regs.buf 0 payload }
        [.checksumMismatch]))

/-- For any length field above 250 an idle parser reports a length violation at the third byte and is idle again,
whatever was to follow, for every kind of its direction (R156, R213). The arrival in one step is the model's (log 9). -/
def Obligations.OverlongFrameIsRejected : Prop :=
  ∀ (s : State) (link : Nat) (k : Link) (now : Nat) (len : Half),
    s.links[link]? = some k → k.regs.Consistent k.dir → k.regs.st = .idle → Config.maxPayload < len.toNat →
    (k.dir = .cmd → ∀ e ∈ [Instr.cmdMouseMoveAbs, Instr.cmdMouseMoveRel, Instr.cmdMouseClick, Instr.cmdKeyboardText,
        Instr.cmdKeyPress, Instr.cmdDelay, Instr.cmdStartRecording, Instr.cmdStopRecording, Instr.cmdStatusQuery],
      exec (e link now (.overlong len)) s
        = .next (s.afterLink link k { k.regs with t0 := now % 2 ^ s.params.clockW } [.lengthViolation]))
    ∧ (k.dir = .evt → ∀ e ∈ [Instr.evtMouseMove, Instr.evtMouseClick, Instr.evtKeyboardInput, Instr.evtStatusResponse,
        Instr.evtError],
      exec (e link now (.overlong len)) s
        = .next (s.afterLink link k { k.regs with t0 := now % 2 ^ s.params.clockW } [.lengthViolation]))

/-- A single flipped bit in the payload or the checksum byte of a command frame, or in its kind byte where that gives
another valid kind, ends in a checksum mismatch and no delivery: R155 (a) and (b), which the spec marks as derived. The
arrival in one step is the model's (log 9). -/
def Obligations.FlippedBitOfCommandIsRejected : Prop :=
  ∀ (s : State) (link : Nat) (k : Link) (now : Nat) (payload : List Byte) (j : Nat),
    s.links[link]? = some k → k.dir = .cmd → k.regs.Consistent .cmd → k.regs.st = .idle →
    payload.length ≤ Config.maxPayload → j < 8 →
    ∀ e ∈ [(Instr.cmdMouseMoveAbs, (0x01 : Byte)), (Instr.cmdMouseMoveRel, 0x02), (Instr.cmdMouseClick, 0x03),
        (Instr.cmdKeyboardText, 0x04), (Instr.cmdKeyPress, 0x05), (Instr.cmdDelay, 0x06),
        (Instr.cmdStartRecording, 0x10), (Instr.cmdStopRecording, 0x11), (Instr.cmdStatusQuery, 0x20)],
      (∀ i < payload.length, ∃ regs : Parser, regs.st = .idle ∧
        exec (e.1 link now (.whole (payload.set i (flipBit (payload.getD i 0) j)) (commandChecksum e.2 payload))) s
          = .next (s.afterLink link k regs [.checksumMismatch]))
      ∧ (∃ regs : Parser, regs.st = .idle ∧
        exec (e.1 link now (.whole payload (flipBit (commandChecksum e.2 payload) j))) s
          = .next (s.afterLink link k regs [.checksumMismatch]))
      ∧ (∀ kind ∈ validKinds .cmd, flipBit kind j = e.2 → ∃ regs : Parser, regs.st = .idle ∧
        exec (e.1 link now (.whole payload (commandChecksum kind payload))) s
          = .next (s.afterLink link k regs [.checksumMismatch]))

/-- A single flipped bit in the timestamp of an event frame ends in a checksum mismatch: R155 (a), which the spec marks
as derived. The arrival in one step is the model's (log 9). -/
def Obligations.FlippedBitOfTimestampIsRejected : Prop :=
  ∀ (s : State) (link : Nat) (k : Link) (now : Nat) (payload : List Byte) (timestamp : Word) (j : Nat),
    s.links[link]? = some k → k.dir = .evt → k.regs.Consistent .evt → k.regs.st = .idle →
    payload.length ≤ Config.maxPayload → j < 32 →
    ∀ e ∈ [(Instr.evtMouseMove, (0x01 : Byte)), (Instr.evtMouseClick, 0x02), (Instr.evtKeyboardInput, 0x03),
        (Instr.evtStatusResponse, 0x20), (Instr.evtError, 0xFF)],
      ∃ regs : Parser, regs.st = .idle ∧
        exec (e.1 link now (.whole payload (timestamp ^^^ BitVec.ofNat 32 (2 ^ j))
          (eventChecksum e.2 payload timestamp))) s
          = .next (s.afterLink link k regs [.checksumMismatch])

/-- The arrival of a frame, or of the reserved code, is the reception of its bytes one after another, one tick apart:
the same state and the same reports in the same order (R89, FEED). The arrival in one step is the model's (log 9). -/
def Obligations.FrameArrivalIsItsBytes : Prop :=
  ∀ (i : Instr) (s : State) (link now : Nat), formatOf i ≠ .op → linkOf i = some link → nowOf i = some now →
    link < s.links.length →
    ∃ t emitted, receiveRun link (encode i).bytes now s = some (t, emitted)
      ∧ exec i s = .next { t with out := .reports link emitted }

/-- The payload of a delivered frame stands in BUF from address 0 and every other byte of BUF is as before, read byte by
byte (R51, R57), for the nine command kinds and the five event kinds. The arrival in one step is the model's (log 9). -/
def Obligations.ArrivedPayloadStandsInBuffer : Prop :=
  ∀ (s t : State) (link : Nat) (k k' : Link) (i : Instr) (payload : List Byte) (now addr : Nat),
    s.links[link]? = some k → k.regs.Consistent k.dir → k.regs.st = .idle → payload.length ≤ Config.maxPayload →
    ((k.dir = .cmd ∧ ∃ checksum, i ∈ [Instr.cmdMouseMoveAbs, Instr.cmdMouseMoveRel, Instr.cmdMouseClick,
        Instr.cmdKeyboardText, Instr.cmdKeyPress, Instr.cmdDelay, Instr.cmdStartRecording, Instr.cmdStopRecording,
        Instr.cmdStatusQuery].map (fun c => c link now (.whole payload checksum)))
      ∨ (k.dir = .evt ∧ ∃ timestamp checksum, i ∈ [Instr.evtMouseMove, Instr.evtMouseClick, Instr.evtKeyboardInput,
        Instr.evtStatusResponse, Instr.evtError].map (fun c => c link now (.whole payload timestamp checksum)))) →
    exec i s = .next t → t.links[link]? = some k' →
    Memory.read k'.regs.buf addr
      = if addr < payload.length then payload.getD addr 0 else Memory.read k.regs.buf addr

/-- Feeding an encoded frame byte by byte to an idle parser of its direction emits no report before the last byte, and
at the last byte exactly the FRAME with the values that were encoded; the parser is idle again: the round trip of R154,
which the spec marks as derived from its transition rules. -/
def Obligations.EncodedFrameRoundTrips : Prop :=
  ∀ (s : State) (link : Nat) (k : Link) (now : Nat) (kind : Byte) (payload : List Byte) (timestamp : Word),
    s.links[link]? = some k → k.regs.Consistent k.dir → k.regs.st = .idle → kind ∈ validKinds k.dir →
    payload.length ≤ Config.maxPayload →
    ∃ (front : List Byte) (last : Byte) (t : State),
      (match k.dir with
        | .cmd => exec (.encCmd kind payload) s = .next { s with out := .bytes (front ++ [last]) }
        | .evt => exec (.encEvt kind payload timestamp) s = .next { s with out := .bytes (front ++ [last]) })
      ∧ receiveRun link front now s = some (t, [])
      ∧ exec (.rxByte link last (now + front.length)) t = .next (s.afterLink link k
          { k.regs with t0 := now % 2 ^ s.params.clockW, buf := Memory.writeRun k.regs.buf 0 payload }
          [.frame { kind := kind, payloadLength := countOf payload, payload := payload,
                    timestamp := (match k.dir with | .cmd => none | .evt => some timestamp), checksum := last }])

/-- An event frame fed to a DIR = CMD parser is taken as a command frame whose checksum byte is its first timestamp byte:
where that byte matches, the first report is that command frame, else a checksum mismatch. The parser is idle there, and
the last four bytes are received from IDLE: R177, which the spec marks as derived. The arrival in one step is the
model's (log 9). -/
def Obligations.EventFrameAtCommandParserIsMisparsed : Prop :=
  ∀ (s : State) (link : Nat) (k : Link) (now : Nat) (payload : List Byte) (timestamp : Word) (checksum : Byte),
    s.links[link]? = some k → k.dir = .cmd → k.regs.Consistent .cmd → k.regs.st = .idle →
    payload.length ≤ Config.maxPayload →
    ∀ e ∈ [(Instr.evtMouseMove, (0x01 : Byte)), (Instr.evtMouseClick, 0x02), (Instr.evtKeyboardInput, 0x03),
        (Instr.evtStatusResponse, 0x20)],
      ∃ (regs : Parser) (more : List Report) (t : State),
        exec (e.1 link now (.whole payload timestamp checksum)) s
          = .next (s.afterLink link k regs
            ((if wordByte 0 timestamp = commandChecksum e.2 payload then
                .frame { kind := e.2, payloadLength := countOf payload, payload := payload, timestamp := none,
                         checksum := wordByte 0 timestamp }
              else .checksumMismatch) :: more))
        ∧ receiveRun link [wordByte 1 timestamp, wordByte 2 timestamp, wordByte 3 timestamp, checksum]
            (now + (payload.length + 4))
            (s.afterLink link k
              { k.regs with t0 := now % 2 ^ s.params.clockW, buf := Memory.writeRun k.regs.buf 0 payload } [])
          = some (t, more)
        ∧ t.links = (s.afterLink link k regs []).links

/-- A command frame of a kind that both directions have, fed to an idle DIR = EVT parser, ends no frame: its checksum byte
is taken as the first timestamp byte, no report comes, and the parser waits for three more: R177, which the spec marks as
derived. The arrival in one step is the model's (log 9). -/
def Obligations.CommandFrameAtEventParserWaits : Prop :=
  ∀ (s : State) (link : Nat) (k : Link) (now : Nat) (payload : List Byte) (checksum : Byte),
    s.links[link]? = some k → k.dir = .evt → k.regs.Consistent .evt → k.regs.st = .idle →
    payload.length ≤ Config.maxPayload →
    ∀ e ∈ [(Instr.cmdMouseMoveAbs, (0x01 : Byte)), (Instr.cmdMouseMoveRel, 0x02), (Instr.cmdMouseClick, 0x03),
        (Instr.cmdStatusQuery, 0x20)],
      exec (e.1 link now (.whole payload checksum)) s = .next (s.afterLink link k
        { st := .tstamp
          kind := e.2
          len := countOf payload
          cnt := BitVec.ofNat 8 payload.length
          buf := Memory.writeRun k.regs.buf 0 payload
          ts := BitVec.ofNat 32 checksum.toNat
          tcnt := 1
          cks := commandChecksum e.2 payload ^^^ checksum
          t0 := now % 2 ^ s.params.clockW } [])

/-- Every frame a step delivers has a valid kind, at most 250 payload bytes and exactly as many as its length says, a
timestamp exactly when DIR = EVT, and a checksum that is the XOR of every byte before it (R46, R149): a frame failing
this check is never delivered. -/
def Obligations.DeliveredFramesAreSound : Prop :=
  ∀ (s t : State) (link : Nat) (emitted : List Report) (f : Frame),
    s.Consistent → step s = .next t → t.out = .reports link emitted → Report.frame f ∈ emitted →
    ∃ k, s.links[link]? = some k ∧ f.Sound k.dir

/-! ### What an instruction leaves unchanged -/

/-- An instruction leaves unchanged: every parameter, what is pending, and every link but the one it addresses, whole
(registers, buffer and static parameters); of the link it addresses, DIR and FRAME_TIMEOUT (R34, R61, R232). -/
def Obligations.InstructionTouchesOneLink : Prop :=
  ∀ (i : Instr) (s t : State), exec i s = .next t →
    t.params = s.params ∧ t.pending = s.pending ∧ t.links.length = s.links.length
    ∧ (∀ other, linkOf i ≠ some other → t.links[other]? = s.links[other]?)
    ∧ (∀ (link : Nat) (k : Link), s.links[link]? = some k →
      ∃ k' : Link, t.links[link]? = some k' ∧ k'.dir = k.dir ∧ k'.frameTimeout = k.frameTimeout)

/-- A stateless operation completes in every state, changes nothing but the output, and its result depends on no
register of a parser: only on its operands and KEYTAB (R36, R170). -/
def Obligations.StatelessOperationsReadOnlyKeytab : Prop :=
  ∀ (i : Instr) (s : State), linkOf i = none →
    ∃ o : Output, exec i s = .next { s with out := o }
      ∧ ∀ u : State, u.params.keytab = s.params.keytab → exec i u = .next { u with out := o }

/-- The events of two links may be taken in either order: the links end the same (R61). -/
def Obligations.EventsOfTwoLinksCommute : Prop :=
  ∀ (i j : Instr) (s : State) (a b : Nat), linkOf i = some a → linkOf j = some b → a ≠ b →
    a < s.links.length → b < s.links.length →
    ∃ t u t' u', exec i s = .next t ∧ exec j t = .next t' ∧ exec j s = .next u ∧ exec i u = .next u'
      ∧ t'.links = u'.links ∧ t'.params = u'.params ∧ t'.pending = u'.pending
      ∧ u.out = t'.out ∧ t.out = u'.out
end

