-- ==== Sys2Proof/Laws/State.lean ====
section
/-! SUPPORT. The fields of the shared updates: one lemma per field per update. -/

namespace Sys2Proof.Machine

section parserReset
variable (p : Parser)

@[simp] theorem parserReset_st : (parserReset p).st = .idle := rfl
@[simp] theorem parserReset_kind : (parserReset p).kind = 0 := rfl
@[simp] theorem parserReset_len : (parserReset p).len = 0 := rfl
@[simp] theorem parserReset_cnt : (parserReset p).cnt = 0 := rfl
@[simp] theorem parserReset_buf : (parserReset p).buf = p.buf := rfl
@[simp] theorem parserReset_ts : (parserReset p).ts = 0 := rfl
@[simp] theorem parserReset_tcnt : (parserReset p).tcnt = 0 := rfl
@[simp] theorem parserReset_cks : (parserReset p).cks = 0 := rfl
@[simp] theorem parserReset_t0 : (parserReset p).t0 = p.t0 := rfl

end parserReset

section afterLink
variable (s : State) (link : Nat) (k : Link) (regs : Parser) (emitted : List Report)

@[simp] theorem afterLink_params : (s.afterLink link k regs emitted).params = s.params := rfl
@[simp] theorem afterLink_pending : (s.afterLink link k regs emitted).pending = s.pending := rfl
@[simp] theorem afterLink_out : (s.afterLink link k regs emitted).out = .reports link emitted := rfl
@[simp] theorem afterLink_links :
    (s.afterLink link k regs emitted).links = s.links.set link { k with regs := regs } := rfl

theorem afterLink_self (h : s.links[link]? = some k) :
    s.afterLink link k k.regs emitted = { s with out := .reports link emitted } := by
  have hset : s.links.set link k = s.links := by
    obtain ⟨hlt, heq⟩ := List.getElem?_eq_some_iff.mp h
    rw [← heq]
    exact List.set_getElem_self hlt
  simp [State.afterLink, hset]

end afterLink

section fetchWord
variable (s : State) (nbits w : Nat)

@[simp] theorem withFetchWord_params : (s.withFetchWord nbits w).params = s.params := rfl
@[simp] theorem withFetchWord_links : (s.withFetchWord nbits w).links = s.links := rfl
@[simp] theorem withFetchWord_out : (s.withFetchWord nbits w).out = s.out := rfl
@[simp] theorem withFetchWord_pending : (s.withFetchWord nbits w).pending = fetchRequest nbits w :: s.pending := rfl

end fetchWord

end Sys2Proof.Machine
end

