-- ==== Sys2Proof/Laws/Checksum.lean ====
section
/-! SUPPORT. The laws of the running XOR (40_checksum.md R100). -/

namespace Sys2Proof.Machine

@[simp] theorem xor8From_nil (acc : Byte) : xor8From acc [] = acc := rfl
@[simp] theorem xor8From_cons (acc b : Byte) (rest : List Byte) :
    xor8From acc (b :: rest) = xor8From (acc ^^^ b) rest := rfl

/-- The seed comes out in front. -/
theorem xor8From_eq (acc : Byte) (bytes : List Byte) : xor8From acc bytes = acc ^^^ xor8From 0 bytes := by
  induction bytes generalizing acc with
  | nil => simp
  | cons b rest ih =>
    rw [xor8From_cons, xor8From_cons, ih (acc ^^^ b), ih (0 ^^^ b), show (0 : Byte) ^^^ b = b from BitVec.zero_xor,
      BitVec.xor_assoc]

theorem xor8From_append (acc : Byte) (front back : List Byte) :
    xor8From acc (front ++ back) = xor8From (xor8From acc front) back := by
  induction front generalizing acc with
  | nil => rfl
  | cons b rest ih => exact ih (acc ^^^ b)

@[simp] theorem xor8_nil : xor8 [] = 0 := rfl

theorem xor8_cons (b : Byte) (rest : List Byte) : xor8 (b :: rest) = b ^^^ xor8 rest := by
  rw [xor8, xor8From_cons, show (0x00 : Byte) ^^^ b = b from BitVec.zero_xor]
  exact xor8From_eq b rest

end Sys2Proof.Machine
end

