-- ==== Sys2Proof/Laws/Fields.lean ====
section
/-! SUPPORT. The assembly of LEN and TS from bytes and back (30_encoding.md R75, R76), each first as a number. -/

namespace Sys2Proof.Machine

/-! ### The length -/

theorem joinHalf_toNat (low high : Byte) : (joinHalf low high).toNat = low.toNat + 256 * high.toNat := by
  have hl := low.isLt
  simp only [joinHalf, BitVec.toNat_append]
  rw [← Nat.shiftLeft_add_eq_or_of_lt hl, Nat.shiftLeft_eq]
  omega

theorem lowByte_toNat (n : Half) : (lowByte n).toNat = n.toNat % 256 := by
  simp [lowByte, BitVec.extractLsb'_toNat]

theorem highByte_toNat (n : Half) : (highByte n).toNat = n.toNat / 256 := by
  have hn := n.isLt
  simp only [highByte, BitVec.extractLsb'_toNat, Nat.shiftRight_eq_div_pow]
  omega

@[simp] theorem lowByte_joinHalf (low high : Byte) : lowByte (joinHalf low high) = low := by
  apply BitVec.eq_of_toNat_eq
  have hl := low.isLt
  rw [lowByte_toNat, joinHalf_toNat]
  omega

@[simp] theorem highByte_joinHalf (low high : Byte) : highByte (joinHalf low high) = high := by
  apply BitVec.eq_of_toNat_eq
  have hl := low.isLt
  rw [highByte_toNat, joinHalf_toNat]
  omega

@[simp] theorem joinHalf_bytes (n : Half) : joinHalf (lowByte n) (highByte n) = n := by
  apply BitVec.eq_of_toNat_eq
  rw [joinHalf_toNat, lowByte_toNat, highByte_toNat]
  omega

/-! ### The timestamp -/

theorem joinWord_toNat (b0 b1 b2 b3 : Byte) : (joinWord b0 b1 b2 b3).toNat
    = b0.toNat + 2 ^ 8 * b1.toNat + 2 ^ 16 * b2.toNat + 2 ^ 24 * b3.toNat := by
  have h0 := b0.isLt
  have h1 := b1.isLt
  have h2 := b2.isLt
  simp only [joinWord, BitVec.toNat_append]
  rw [← Nat.shiftLeft_add_eq_or_of_lt h0, ← Nat.shiftLeft_add_eq_or_of_lt h1, ← Nat.shiftLeft_add_eq_or_of_lt h2]
  simp only [Nat.shiftLeft_eq]
  omega

theorem wordByte_toNat (j : Nat) (ts : Word) : (wordByte j ts).toNat = ts.toNat / 2 ^ (8 * j) % 256 := by
  simp [wordByte, BitVec.extractLsb'_toNat, Nat.shiftRight_eq_div_pow]

@[simp] theorem wordByte_zero_joinWord (b0 b1 b2 b3 : Byte) : wordByte 0 (joinWord b0 b1 b2 b3) = b0 := by
  apply BitVec.eq_of_toNat_eq
  have h0 := b0.isLt
  rw [wordByte_toNat, joinWord_toNat]
  omega

@[simp] theorem wordByte_one_joinWord (b0 b1 b2 b3 : Byte) : wordByte 1 (joinWord b0 b1 b2 b3) = b1 := by
  apply BitVec.eq_of_toNat_eq
  have h0 := b0.isLt
  have h1 := b1.isLt
  rw [wordByte_toNat, joinWord_toNat]
  omega

@[simp] theorem wordByte_two_joinWord (b0 b1 b2 b3 : Byte) : wordByte 2 (joinWord b0 b1 b2 b3) = b2 := by
  apply BitVec.eq_of_toNat_eq
  have h0 := b0.isLt
  have h1 := b1.isLt
  have h2 := b2.isLt
  rw [wordByte_toNat, joinWord_toNat]
  omega

@[simp] theorem wordByte_three_joinWord (b0 b1 b2 b3 : Byte) : wordByte 3 (joinWord b0 b1 b2 b3) = b3 := by
  apply BitVec.eq_of_toNat_eq
  have h0 := b0.isLt
  have h1 := b1.isLt
  have h2 := b2.isLt
  have h3 := b3.isLt
  rw [wordByte_toNat, joinWord_toNat]
  omega

@[simp] theorem joinWord_bytes (ts : Word) :
    joinWord (wordByte 0 ts) (wordByte 1 ts) (wordByte 2 ts) (wordByte 3 ts) = ts := by
  apply BitVec.eq_of_toNat_eq
  have ht := ts.isLt
  rw [joinWord_toNat]
  simp only [wordByte_toNat]
  omega

end Sys2Proof.Machine
end

