-- ==== Sys2Proof/Laws/KeyTranslator.lean ====
section
/-! SUPPORT. What the constraints on KEYTAB say, one by one (41_key_translator.md R128). -/

namespace Sys2Proof.Machine

theorem keytabLegal_iff (k : KeyTab) :
    keytabLegal k = true ↔ keytabWf k = true ∧ specialCodesUnprintable k = true := by
  simp [keytabLegal]

/-- R128 (a), (b) and (d) of a KEYTAB that meets them. -/
theorem keytabWf_iff (k : KeyTab) :
    keytabWf k = true ↔ runsFit k = true ∧ (∀ b ∈ virtualCodes k, b ≠ 0) ∧ (∀ b ∈ nativeCodes k, b ≠ 0)
      ∧ (virtualCodes k).Nodup := by
  simp [keytabWf, and_assoc]

/-- R128 (f) of a KEYTAB that meets it. -/
theorem specialCodesUnprintable_iff (k : KeyTab) :
    specialCodesUnprintable k = true ↔ ∀ b ∈ specialNativeCodes k, printable b = false := by
  simp [specialCodesUnprintable]

theorem printable_eq_false_iff (b : Byte) : printable b = false ↔ b.toNat < 0x20 ∨ 0x7E < b.toNat := by
  simp only [printable, decide_eq_false_iff_not]
  omega

end Sys2Proof.Machine
end

