-- ==== Sys2Proof/Laws/Memory.lean ====
section
/-! SUPPORT. The payload buffer: what a write changes, and that every operation keeps the canonical form. -/

namespace Sys2Proof.Machine

/-! ### Reads after writes -/

@[simp] theorem Memory.read_nil (addr : Nat) : Memory.read [] addr = unlistedByte := rfl

/-- A write leaves every other byte alone, in every list. -/
theorem Memory.read_set_of_ne (m : Memory) (addr other : Nat) (b : Byte) (h : other ≠ addr) :
    Memory.read (Memory.set m addr b) other = Memory.read m other := by
  induction m with
  | nil =>
    simp only [Memory.set]
    split
    · rfl
    · simp [Memory.read, h.symm]
  | cons cell rest ih =>
    obtain ⟨a, v⟩ := cell
    simp only [Memory.set]
    split
    · split
      · rfl
      · simp [Memory.read, h.symm]
    · split
      · rename_i _ ha
        subst ha
        split
        · simp [Memory.read, h.symm]
        · simp [Memory.read, h.symm]
      · simp only [Memory.read]
        split
        · rfl
        · exact ih

/-- In a canonical list every byte below the bound is unlisted. -/
theorem Memory.read_of_lt_bound {bound : Nat} {m : Memory} (h : Memory.canonicalFrom bound m = true) {addr : Nat}
    (hlt : addr < bound) : Memory.read m addr = unlistedByte := by
  induction m generalizing bound with
  | nil => rfl
  | cons cell rest ih =>
    obtain ⟨a, v⟩ := cell
    simp only [Memory.canonicalFrom, Bool.and_eq_true, decide_eq_true_eq] at h
    simp only [Memory.read]
    rw [if_neg (by omega)]
    exact ih h.2 (by omega)

/-- A write is read back. -/
theorem Memory.read_set_self {bound : Nat} {m : Memory} (h : Memory.canonicalFrom bound m = true) (addr : Nat)
    (b : Byte) : Memory.read (Memory.set m addr b) addr = b := by
  induction m generalizing bound with
  | nil =>
    simp only [Memory.set]
    split
    · simp_all
    · simp [Memory.read]
  | cons cell rest ih =>
    obtain ⟨a, v⟩ := cell
    simp only [Memory.canonicalFrom, Bool.and_eq_true, decide_eq_true_eq] at h
    simp only [Memory.set]
    split
    · split
      · rename_i hlt hb
        simp only [Memory.read]
        rw [if_neg (by omega), Memory.read_of_lt_bound h.2 (by omega), hb]
      · simp [Memory.read]
    · split
      · split
        · rename_i _ ha hb
          rw [Memory.read_of_lt_bound h.2 (by omega), hb]
        · simp [Memory.read]
      · rename_i _ ha
        simp only [Memory.read]
        rw [if_neg (fun e => ha e.symm)]
        exact ih h.2

/-! ### The canonical form -/

theorem Memory.canonicalFrom_mono {lower bound : Nat} {m : Memory} (h : Memory.canonicalFrom bound m = true)
    (hle : lower ≤ bound) : Memory.canonicalFrom lower m = true := by
  cases m with
  | nil => rfl
  | cons cell rest =>
    obtain ⟨a, v⟩ := cell
    simp only [Memory.canonicalFrom, Bool.and_eq_true, decide_eq_true_eq] at h ⊢
    exact ⟨⟨⟨by omega, h.1.1.2⟩, h.1.2⟩, h.2⟩

theorem Memory.set_canonical {bound : Nat} {m : Memory} (h : Memory.canonicalFrom bound m = true) {addr : Nat}
    (hlow : bound ≤ addr) (hin : addr < Config.bufSize) (b : Byte) :
    Memory.canonicalFrom bound (Memory.set m addr b) = true := by
  induction m generalizing bound with
  | nil =>
    simp only [Memory.set]
    split
    · rfl
    · simp [Memory.canonicalFrom, *]
  | cons cell rest ih =>
    obtain ⟨a, v⟩ := cell
    have hc := h
    simp only [Memory.canonicalFrom, Bool.and_eq_true, decide_eq_true_eq] at h
    simp only [Memory.set]
    split
    · split
      · exact hc
      · simp only [Memory.canonicalFrom, Bool.and_eq_true, decide_eq_true_eq]
        exact ⟨⟨⟨hlow, hin⟩, ‹_›⟩, ⟨⟨by omega, h.1.1.2⟩, h.1.2⟩, h.2⟩
    · split
      · split
        · exact Memory.canonicalFrom_mono h.2 (by omega)
        · simp only [Memory.canonicalFrom, Bool.and_eq_true, decide_eq_true_eq]
          exact ⟨⟨⟨hlow, hin⟩, ‹_›⟩, Memory.canonicalFrom_mono h.2 (by omega)⟩
      · simp only [Memory.canonicalFrom, Bool.and_eq_true, decide_eq_true_eq]
        exact ⟨h.1, ih h.2 (by omega)⟩

/-- A write keeps the canonical form, whatever the address. -/
theorem Memory.write_wf {m : Memory} (h : Memory.wf m = true) (addr : Nat) (b : Byte) :
    Memory.wf (Memory.write m addr b) = true := by
  unfold Memory.write
  split
  · exact Memory.set_canonical h (Nat.zero_le _) ‹_› b
  · exact h

theorem Memory.writeRun_wf {m : Memory} (h : Memory.wf m = true) (start : Nat) (bytes : List Byte) :
    Memory.wf (Memory.writeRun m start bytes) = true := by
  induction bytes generalizing m start with
  | nil => exact h
  | cons b rest ih => exact ih (Memory.write_wf h start b) (start + 1)

/-- The buffer right after reset is canonical. -/
theorem Memory.afterReset_wf : Memory.wf Parser.afterReset.buf = true := rfl

/-! ### The write and the run of writes -/

theorem Memory.read_write_of_ne (m : Memory) (addr other : Nat) (b : Byte) (h : other ≠ addr) :
    Memory.read (Memory.write m addr b) other = Memory.read m other := by
  unfold Memory.write
  split
  · exact Memory.read_set_of_ne m addr other b h
  · rfl

theorem Memory.read_write_self {m : Memory} (h : Memory.wf m = true) {addr : Nat} (hin : addr < Config.bufSize)
    (b : Byte) : Memory.read (Memory.write m addr b) addr = b := by
  simp only [Memory.write, if_pos hin]
  exact Memory.read_set_self h addr b

theorem Memory.readRun_eq_map (m : Memory) (start n : Nat) :
    Memory.readRun m start n = (List.range n).map (fun k => Memory.read m (start + k)) := by
  induction n generalizing start with
  | zero => rfl
  | succ n ih =>
    simp only [Memory.readRun, ih, List.range_succ_eq_map, List.map_cons, List.map_map, Nat.add_zero]
    congr 1
    apply List.map_congr_left
    intro k _
    simp only [Function.comp, Nat.succ_eq_add_one]
    congr 1
    omega

@[simp] theorem Memory.readRun_length (m : Memory) (start n : Nat) : (Memory.readRun m start n).length = n := by
  simp [Memory.readRun_eq_map]

/-- Everything a run of writes inside the buffer does: the bytes stand where they were written, and no other byte
changes. -/
theorem Memory.read_writeRun {m : Memory} (h : Memory.wf m = true) (start : Nat) (bytes : List Byte)
    (hin : start + bytes.length ≤ Config.bufSize) (addr : Nat) :
    Memory.read (Memory.writeRun m start bytes) addr
      = if start ≤ addr ∧ addr < start + bytes.length then bytes.getD (addr - start) 0 else Memory.read m addr := by
  induction bytes generalizing m start with
  | nil => simp [Memory.writeRun]
  | cons b rest ih =>
    simp only [List.length_cons] at hin
    simp only [Memory.writeRun, List.length_cons]
    rw [ih (Memory.write_wf h start b) (start + 1) (by omega)]
    rcases Nat.lt_trichotomy addr start with hlt | heq | hgt
    · rw [if_neg (by omega), if_neg (by omega), Memory.read_write_of_ne _ _ _ _ (by omega)]
    · subst heq
      rw [if_neg (by omega), if_pos (by omega), Memory.read_write_self h (by omega)]
      simp
    · by_cases hb : addr < start + 1 + rest.length
      · rw [if_pos ⟨by omega, hb⟩, if_pos (by omega)]
        obtain ⟨d, hd⟩ : ∃ d, addr - start = d + 1 := ⟨addr - start - 1, by omega⟩
        rw [hd, show addr - (start + 1) = d by omega]
        simp
      · rw [if_neg (by omega), if_neg (by omega), Memory.read_write_of_ne _ _ _ _ (by omega)]

end Sys2Proof.Machine
end

