-- ==== Sys2Proof/Laws/Ops.lean ====
section
/-! SUPPORT. What each shared operation can do, said once: a step of one link, an answer, a raised report, the
reception of a byte, and the fetch. -/

namespace Sys2Proof.Machine

/-- A step of an existing link completes. -/
theorem onLink_of_some {s : State} {link : Nat} {k : Link} (f : Link → Parser × List Report)
    (h : s.links[link]? = some k) : onLink link f s = .next (s.afterLink link k (f k).1 (f k).2) := by
  simp [onLink, h, State.afterLink]

theorem onLink_of_none {s : State} {link : Nat} (f : Link → Parser × List Report)
    (h : s.links[link]? = none) : onLink link f s = .fault .noSuchLink := by
  simp [onLink, h]

/-- Everything a step of one link can do when it completes. -/
theorem onLink_next {s t : State} {link : Nat} {f : Link → Parser × List Report} (h : onLink link f s = .next t) :
    ∃ k, s.links[link]? = some k ∧ t = s.afterLink link k (f k).1 (f k).2 := by
  cases hk : s.links[link]? with
  | none => simp [onLink_of_none f hk] at h
  | some k =>
    rw [onLink_of_some f hk] at h
    exact ⟨k, rfl, by simpa using h.symm⟩

theorem answer_next {o : Output} {s t : State} (h : answer o s = .next t) : t = { s with out := o } := by
  simpa [answer, eq_comm] using h

@[simp] theorem raiseReport_regs (x : Report) (p : Parser) : (raiseReport x p).1 = parserReset p := rfl
@[simp] theorem raiseReport_report (x : Report) (p : Parser) : (raiseReport x p).2 = some x := rfl

/-! The state decides which of the six rules runs (42_frame_parser.md R142). -/

section receiveByte
variable {clockW : Nat} {dir : Dir} {b : Byte} {now : Nat} {p : Parser}

theorem receiveByte_idle (h : p.st = .idle) : receiveByte clockW dir b now p = rxIdle clockW dir b now p := by
  simp [receiveByte, h]
theorem receiveByte_lenLow (h : p.st = .lenLow) : receiveByte clockW dir b now p = rxLenLow b p := by
  simp [receiveByte, h]
theorem receiveByte_lenHigh (h : p.st = .lenHigh) : receiveByte clockW dir b now p = rxLenHigh dir b p := by
  simp [receiveByte, h]
theorem receiveByte_payload (h : p.st = .payload) : receiveByte clockW dir b now p = rxPayload dir b p := by
  simp [receiveByte, h]
theorem receiveByte_tstamp (h : p.st = .tstamp) : receiveByte clockW dir b now p = rxTstamp b p := by
  simp [receiveByte, h]
theorem receiveByte_checksum (h : p.st = .checksum) : receiveByte clockW dir b now p = rxChecksum dir b p := by
  simp [receiveByte, h]

end receiveByte

/-- TICK either abandons the frame or does nothing (42_frame_parser.md R151). -/
theorem tickParser_cases (clockW frameTimeout now : Nat) (p : Parser) :
    (tickParser clockW frameTimeout now p = (parserReset p, some .stalled) ∧ p.st ≠ .idle
        ∧ timedOut clockW frameTimeout p.t0 now = true)
    ∨ tickParser clockW frameTimeout now p = (p, none) := by
  unfold tickParser
  split
  · rename_i h
    simp only [Bool.and_eq_true, Parser.inFrame, decide_eq_true_eq] at h
    exact .inl ⟨rfl, h.1, h.2⟩
  · exact .inr rfl

@[simp] theorem feed_nil (clockW : Nat) (dir : Dir) (now : Nat) (p : Parser) : feed clockW dir [] now p = (p, []) := rfl

theorem feed_cons (clockW : Nat) (dir : Dir) (b : Byte) (rest : List Byte) (now : Nat) (p : Parser) :
    feed clockW dir (b :: rest) now p
      = ((feed clockW dir rest (now + 1) (receiveByte clockW dir b now p).1).1,
        (receiveByte clockW dir b now p).2.toList
          ++ (feed clockW dir rest (now + 1) (receiveByte clockW dir b now p).1).2) := rfl

/-- A sequence is fed as its front and then its back (30_encoding.md R89). -/
theorem feed_append (clockW : Nat) (dir : Dir) (front back : List Byte) (now : Nat) (p : Parser) :
    feed clockW dir (front ++ back) now p
      = ((feed clockW dir back (now + front.length) (feed clockW dir front now p).1).1,
        (feed clockW dir front now p).2
          ++ (feed clockW dir back (now + front.length) (feed clockW dir front now p).1).2) := by
  induction front generalizing now p with
  | nil => simp
  | cons b rest ih =>
    simp only [List.cons_append, feed_cons, ih, List.length_cons, List.append_assoc]
    rw [show now + 1 + rest.length = now + (rest.length + 1) by omega]

/-- The fetch of a request whose bytes decode. -/
theorem fetch_of_decode {s : State} {r : Request} {others : List Request} {i : Instr} {rest : List Byte}
    (hp : s.pending = r :: others) (hd : decode r = .ok (i, rest)) :
    fetch s = .run i { s with pending := leaveRest r rest others } := by
  simp [fetch, hp, hd]

/-- With nothing pending there is no event. -/
theorem fetch_of_nil {s : State} (hp : s.pending = []) : fetch s = .wait s := by
  simp [fetch, hp]

/-- A request with no bytes is no event: it is taken away. -/
theorem fetch_of_no_bytes {s : State} {r : Request} {others : List Request} (hp : s.pending = r :: others)
    (hb : r.bytes = []) : fetch s = .wait { s with pending := others } := by
  obtain ⟨format, link, now, bytes⟩ := r
  subst hb
  cases format <;> simp [fetch, hp, decode, decodeOp, decodeCmd, decodeEvt]

/-- Bytes at the operation port that decode to no operation are rejected. -/
theorem fetch_of_no_operation {s : State} {r : Request} {others : List Request} {b : Byte} {rest : List Byte}
    {e : Reject} (hp : s.pending = r :: others) (hf : r.format = .op) (hb : r.bytes = b :: rest)
    (hd : decode r = .error e) : fetch s = .reject := by
  simp [fetch, hp, hd, hb, hf]

/-- Whatever is fetched, only the queue of the state changes. -/
theorem fetch_run_state {s t : State} {i : Instr} (h : fetch s = .run i t) :
    t.params = s.params ∧ t.links = s.links ∧ t.out = s.out := by
  unfold fetch at h
  split at h
  · cases h
  · split at h
    · cases h; exact ⟨rfl, rfl, rfl⟩
    · split at h <;> cases h <;> exact ⟨rfl, rfl, rfl⟩

end Sys2Proof.Machine
end

