-- ==== Sys2Proof/Laws/PerInstr.lean ====
section
/-! SUPPORT. Statements about every instruction as syntax, one lemma per constructor. -/

namespace Sys2Proof.Laws

/-- The first byte of an instruction's encoding lies in the code space of its format: an operation index below 10
(30_encoding.md R86), a valid command kind or the reserved 0xFF (R78, R81), a valid event kind (R78). -/
def OpcodeByte.Statement (i : Instr) : Prop :=
  (encode i).bytes.head? = some (firstByte i)
    ∧ (formatOf i = .op → (firstByte i).toNat < 10)
    ∧ (formatOf i = .cmd → firstByte i ∈ validKinds .cmd ∨ firstByte i = 0xFF)
    ∧ (formatOf i = .evt → firstByte i ∈ validKinds .evt)

theorem OpcodeByte.reset (link : Nat) :
    OpcodeByte.Statement (.reset link) := by simp [OpcodeByte.Statement, encode, formatOf, firstByte, validKinds]

theorem OpcodeByte.rxByte (link : Nat) (b : Byte) (now : Nat) :
    OpcodeByte.Statement (.rxByte link b now) := by simp [OpcodeByte.Statement, encode, formatOf, firstByte, validKinds]

theorem OpcodeByte.tick (link : Nat) (now : Nat) :
    OpcodeByte.Statement (.tick link now) := by simp [OpcodeByte.Statement, encode, formatOf, firstByte, validKinds]

theorem OpcodeByte.xor8 (bytes : List Byte) :
    OpcodeByte.Statement (.xor8 bytes) := by simp [OpcodeByte.Statement, encode, formatOf, firstByte, validKinds]

theorem OpcodeByte.verify (bytes : List Byte) :
    OpcodeByte.Statement (.verify bytes) := by simp [OpcodeByte.Statement, encode, formatOf, firstByte, validKinds]

theorem OpcodeByte.encCmd (kind : Byte) (payload : List Byte) :
    OpcodeByte.Statement (.encCmd kind payload) := by simp [OpcodeByte.Statement, encode, formatOf, firstByte, validKinds]

theorem OpcodeByte.encEvt (kind : Byte) (payload : List Byte) (timestamp : Word) :
    OpcodeByte.Statement (.encEvt kind payload timestamp) := by simp [OpcodeByte.Statement, encode, formatOf, firstByte, validKinds]

theorem OpcodeByte.sc2vk (sc : Byte) :
    OpcodeByte.Statement (.sc2vk sc) := by simp [OpcodeByte.Statement, encode, formatOf, firstByte, validKinds]

theorem OpcodeByte.vk2nk (vk : Byte) :
    OpcodeByte.Statement (.vk2nk vk) := by simp [OpcodeByte.Statement, encode, formatOf, firstByte, validKinds]

theorem OpcodeByte.sc2nk (sc : Byte) :
    OpcodeByte.Statement (.sc2nk sc) := by simp [OpcodeByte.Statement, encode, formatOf, firstByte, validKinds]

theorem OpcodeByte.cmdMouseMoveAbs (link : Nat) (now : Nat) (body : CmdBody) :
    OpcodeByte.Statement (.cmdMouseMoveAbs link now body) := by simp [OpcodeByte.Statement, encode, formatOf, firstByte, validKinds]

theorem OpcodeByte.cmdMouseMoveRel (link : Nat) (now : Nat) (body : CmdBody) :
    OpcodeByte.Statement (.cmdMouseMoveRel link now body) := by simp [OpcodeByte.Statement, encode, formatOf, firstByte, validKinds]

theorem OpcodeByte.cmdMouseClick (link : Nat) (now : Nat) (body : CmdBody) :
    OpcodeByte.Statement (.cmdMouseClick link now body) := by simp [OpcodeByte.Statement, encode, formatOf, firstByte, validKinds]

theorem OpcodeByte.cmdKeyboardText (link : Nat) (now : Nat) (body : CmdBody) :
    OpcodeByte.Statement (.cmdKeyboardText link now body) := by simp [OpcodeByte.Statement, encode, formatOf, firstByte, validKinds]

theorem OpcodeByte.cmdKeyPress (link : Nat) (now : Nat) (body : CmdBody) :
    OpcodeByte.Statement (.cmdKeyPress link now body) := by simp [OpcodeByte.Statement, encode, formatOf, firstByte, validKinds]

theorem OpcodeByte.cmdDelay (link : Nat) (now : Nat) (body : CmdBody) :
    OpcodeByte.Statement (.cmdDelay link now body) := by simp [OpcodeByte.Statement, encode, formatOf, firstByte, validKinds]

theorem OpcodeByte.cmdStartRecording (link : Nat) (now : Nat) (body : CmdBody) :
    OpcodeByte.Statement (.cmdStartRecording link now body) := by simp [OpcodeByte.Statement, encode, formatOf, firstByte, validKinds]

theorem OpcodeByte.cmdStopRecording (link : Nat) (now : Nat) (body : CmdBody) :
    OpcodeByte.Statement (.cmdStopRecording link now body) := by simp [OpcodeByte.Statement, encode, formatOf, firstByte, validKinds]

theorem OpcodeByte.cmdStatusQuery (link : Nat) (now : Nat) (body : CmdBody) :
    OpcodeByte.Statement (.cmdStatusQuery link now body) := by simp [OpcodeByte.Statement, encode, formatOf, firstByte, validKinds]

theorem OpcodeByte.cmdReservedFf (link : Nat) (now : Nat) :
    OpcodeByte.Statement (.cmdReservedFf link now) := by simp [OpcodeByte.Statement, encode, formatOf, firstByte, validKinds]

theorem OpcodeByte.evtMouseMove (link : Nat) (now : Nat) (body : EvtBody) :
    OpcodeByte.Statement (.evtMouseMove link now body) := by simp [OpcodeByte.Statement, encode, formatOf, firstByte, validKinds]

theorem OpcodeByte.evtMouseClick (link : Nat) (now : Nat) (body : EvtBody) :
    OpcodeByte.Statement (.evtMouseClick link now body) := by simp [OpcodeByte.Statement, encode, formatOf, firstByte, validKinds]

theorem OpcodeByte.evtKeyboardInput (link : Nat) (now : Nat) (body : EvtBody) :
    OpcodeByte.Statement (.evtKeyboardInput link now body) := by simp [OpcodeByte.Statement, encode, formatOf, firstByte, validKinds]

theorem OpcodeByte.evtStatusResponse (link : Nat) (now : Nat) (body : EvtBody) :
    OpcodeByte.Statement (.evtStatusResponse link now body) := by simp [OpcodeByte.Statement, encode, formatOf, firstByte, validKinds]

theorem OpcodeByte.evtError (link : Nat) (now : Nat) (body : EvtBody) :
    OpcodeByte.Statement (.evtError link now body) := by simp [OpcodeByte.Statement, encode, formatOf, firstByte, validKinds]

end Sys2Proof.Laws
end

