-- ==== Sys2Proof/Tests/Slice0.lean ====
section
/-! SUPPORT. Named tests of the model. The expected values are the spec's: the worked examples of its rules and the
vectors of 95_test_vectors.md, cited at each test. The second half names, for each statement that has hypotheses, a
state and operands that meet them. -/

namespace Sys2Proof.Tests

open Sys2Proof Sys2Proof.Machine

/-! ### Small states -/

/-- A link with FRAME_TIMEOUT = 100 (the value of the worked example of 42_frame_parser.md R151). -/
def linkOn (dir : Dir) (p : Parser) : Link := { dir := dir, frameTimeout := 100, regs := p }

/-- A machine with one link. -/
def oneLink (dir : Dir) (p : Parser) : State where
  params := { clockW := 32, keytab := defaultKeytab }
  links := [linkOn dir p]
  pending := []
  out := .quiet

/-- A machine with one idle link of each direction and FRAME_TIMEOUT = 100. -/
def twoLinks : State where
  params := { clockW := 32, keytab := defaultKeytab }
  links := [linkOn .cmd Parser.afterReset, linkOn .evt Parser.afterReset]
  pending := []
  out := .quiet

/-- What a step puts out. -/
def outOf : StepOutcome → Option Output
  | .next t => some t.out
  | .fault _ => none
  | .refused _ => none

/-- The registers of link 0 after a step. -/
def regsOf : StepOutcome → Option Parser
  | .next t => t.links[0]?.map Link.regs
  | .fault _ => none
  | .refused _ => none

/-- The parser after the bytes `10`: kind START_RECORDING taken at clock 1000. -/
def inLenLow : Parser := { Parser.afterReset with st := .lenLow, kind := 0x10, cks := 0x10, t0 := 1000 }

/-- The parser after `05 01`. -/
def inLenHigh : Parser := { Parser.afterReset with st := .lenHigh, kind := 0x05, len := 1, cks := 0x04 }

/-- The parser after `05 01 00`: the state before the payload byte of the worked example of R146. -/
def inPayload : Parser := { Parser.afterReset with st := .payload, kind := 0x05, len := 1, cks := 0x04, t0 := 1000 }

/-- The parser before the last of 250 payload bytes, those before it 0x00. -/
def atLastByte : Parser := { Parser.afterReset with st := .payload, kind := 0x04, len := 250, cnt := 249, cks := 0xFE }

/-- The parser before the checksum byte of a command frame of 250 bytes 0x00: the most raw bytes (R33). -/
def fullCommand : Parser := { Parser.afterReset with st := .checksum, kind := 0x04, len := 250, cnt := 250, cks := 0xFE }

/-- The same of an event frame with timestamp 0. -/
def fullEvent : Parser :=
  { Parser.afterReset with st := .checksum, kind := 0x03, len := 250, cnt := 250, tcnt := 4, cks := 0xF9 }

/-- The parser after `20 00 00 EF BE AD` of an event frame. -/
def inTstamp : Parser :=
  { Parser.afterReset with st := .tstamp, kind := 0x20, ts := 0x00ADBEEF, tcnt := 3, cks := 0xDC }

/-- The parser before the first timestamp byte of an empty event frame. -/
def atTstamp : Parser := { Parser.afterReset with st := .tstamp, kind := 0x20, cks := 0x20 }

/-- The parser after `10 00 00` of a command frame: the worked example of R148. -/
def inChecksum : Parser := { Parser.afterReset with st := .checksum, kind := 0x10, cks := 0x10 }

/-- The parser before the checksum byte of an event frame of kind 0xFF with timestamp 1. -/
def inChecksumEvt : Parser :=
  { Parser.afterReset with st := .checksum, kind := 0xFF, ts := 1, tcnt := 4, cks := 0xFE }

/-! ### Ill-formed instructions are refused, each check of WellFormed -/

theorem test_wf_refuses_long_command :
    WellFormed (.cmdDelay 0 0 (.whole (List.replicate 251 0) 0)) = false := by
  simp only [WellFormed, CmdBody.wellFormed, List.length_replicate]; decide
theorem test_wf_refuses_short_overlong_command : WellFormed (.cmdDelay 0 0 (.overlong 250)) = false := by decide
theorem test_wf_refuses_long_event :
    WellFormed (.evtError 0 0 (.whole (List.replicate 251 0) 0 0)) = false := by
  simp only [WellFormed, EvtBody.wellFormed, List.length_replicate]; decide
theorem test_wf_refuses_short_overlong_event : WellFormed (.evtError 0 0 (.overlong 250)) = false := by decide
/-- A payload of 65536 bytes has no 16-bit count. -/
theorem payloadCounts_of_length {payload : List Byte} (h : payload.length = 65536) : payloadCounts payload = false := by
  simp [payloadCounts, h]
theorem test_wf_refuses_long_enc_cmd : WellFormed (.encCmd 0x01 (List.replicate 65536 0)) = false := by
  rw [WellFormed]; exact payloadCounts_of_length (by rw [List.length_replicate])
theorem test_wf_refuses_long_enc_evt : WellFormed (.encEvt 0x01 (List.replicate 65536 0) 0) = false := by
  rw [WellFormed]; exact payloadCounts_of_length (by rw [List.length_replicate])

/-! ### Decoding of words written out from the spec's encodings

Operations: the index of 30_encoding.md R86 in the first byte, the operands as log 8 lays them out. Frames: the worked
examples of 44_frame_kinds.md R186 to R200. -/

theorem test_decode_reset : decode ⟨.op, 1, 9, [0x00]⟩ = .ok (.reset 1, []) := rfl
theorem test_decode_rx_byte : decode ⟨.op, 1, 9, [0x01, 0xA5]⟩ = .ok (.rxByte 1 0xA5 9, []) := rfl
theorem test_decode_tick : decode ⟨.op, 1, 9, [0x02]⟩ = .ok (.tick 1 9, []) := rfl
theorem test_decode_xor8 : decode ⟨.op, 1, 9, [0x03, 0xA5, 0x5A]⟩ = .ok (.xor8 [0xA5, 0x5A], []) := rfl
theorem test_decode_verify :
    decode ⟨.op, 1, 9, [0x04, 0x10, 0x00, 0x00, 0x10]⟩ = .ok (.verify [0x10, 0x00, 0x00, 0x10], []) := rfl
theorem test_decode_enc_cmd :
    decode ⟨.op, 1, 9, [0x05, 0x02, 0x02, 0x00, 0x05, 0xFB]⟩ = .ok (.encCmd 0x02 [0x05, 0xFB], []) := rfl
theorem test_decode_enc_evt :
    decode ⟨.op, 1, 9, [0x06, 0x20, 0xEF, 0xBE, 0xAD, 0xDE, 0x01, 0x00, 0x01]⟩
      = .ok (.encEvt 0x20 [0x01] 0xDEADBEEF, []) := rfl
theorem test_decode_sc2vk : decode ⟨.op, 1, 9, [0x07, 0x27]⟩ = .ok (.sc2vk 0x27, []) := rfl
theorem test_decode_vk2nk : decode ⟨.op, 1, 9, [0x08, 0x41]⟩ = .ok (.vk2nk 0x41, []) := rfl
theorem test_decode_sc2nk : decode ⟨.op, 1, 9, [0x09, 0x04]⟩ = .ok (.sc2nk 0x04, []) := rfl
theorem test_decode_mouse_move_abs :
    decode ⟨.cmd, 1, 9, [0x01, 0x04, 0x00, 0x00, 0x64, 0x00, 0xC8, 0xA9]⟩
      = .ok (.cmdMouseMoveAbs 1 9 (.whole [0x00, 0x64, 0x00, 0xC8] 0xA9), []) := rfl
theorem test_decode_mouse_move_rel :
    decode ⟨.cmd, 1, 9, [0x02, 0x02, 0x00, 0x05, 0xFB, 0xFE]⟩
      = .ok (.cmdMouseMoveRel 1 9 (.whole [0x05, 0xFB] 0xFE), []) := rfl
theorem test_decode_mouse_click :
    decode ⟨.cmd, 1, 9, [0x03, 0x01, 0x00, 0x01, 0x03]⟩ = .ok (.cmdMouseClick 1 9 (.whole [0x01] 0x03), []) := rfl
theorem test_decode_keyboard_text :
    decode ⟨.cmd, 1, 9, [0x04, 0x02, 0x00, 0x48, 0x69, 0x27]⟩
      = .ok (.cmdKeyboardText 1 9 (.whole [0x48, 0x69] 0x27), []) := rfl
theorem test_decode_key_press :
    decode ⟨.cmd, 1, 9, [0x05, 0x01, 0x00, 0x04, 0x00]⟩ = .ok (.cmdKeyPress 1 9 (.whole [0x04] 0x00), []) := rfl
theorem test_decode_delay :
    decode ⟨.cmd, 1, 9, [0x06, 0x02, 0x00, 0xE8, 0x03, 0xEF]⟩
      = .ok (.cmdDelay 1 9 (.whole [0xE8, 0x03] 0xEF), []) := rfl
theorem test_decode_start_recording :
    decode ⟨.cmd, 1, 9, [0x10, 0x00, 0x00, 0x10]⟩ = .ok (.cmdStartRecording 1 9 (.whole [] 0x10), []) := rfl
theorem test_decode_stop_recording :
    decode ⟨.cmd, 1, 9, [0x11, 0x00, 0x00, 0x11]⟩ = .ok (.cmdStopRecording 1 9 (.whole [] 0x11), []) := rfl
theorem test_decode_status_query :
    decode ⟨.cmd, 1, 9, [0x20, 0x00, 0x00, 0x20]⟩ = .ok (.cmdStatusQuery 1 9 (.whole [] 0x20), []) := rfl
theorem test_decode_reserved_ff :
    decode ⟨.cmd, 1, 9, [0xFF, 0x00]⟩ = .ok (.cmdReservedFf 1 9, [0x00]) := rfl
theorem test_decode_evt_mouse_move :
    decode ⟨.evt, 1, 9, [0x01, 0x04, 0x00, 0x00, 0x64, 0x00, 0xC8, 0x39, 0x30, 0x00, 0x00, 0xA0]⟩
      = .ok (.evtMouseMove 1 9 (.whole [0x00, 0x64, 0x00, 0xC8] 12345 0xA0), []) := rfl
theorem test_decode_evt_mouse_click :
    decode ⟨.evt, 1, 9, [0x02, 0x01, 0x00, 0x01, 0x01, 0x00, 0x00, 0x00, 0x03]⟩
      = .ok (.evtMouseClick 1 9 (.whole [0x01] 1 0x03), []) := rfl
theorem test_decode_evt_keyboard_input :
    decode ⟨.evt, 1, 9, [0x03, 0x01, 0x00, 0x04, 0xFF, 0xFF, 0xFF, 0xFF, 0x06]⟩
      = .ok (.evtKeyboardInput 1 9 (.whole [0x04] 0xFFFFFFFF 0x06), []) := rfl
theorem test_decode_evt_status_response :
    decode ⟨.evt, 1, 9, [0x20, 0x01, 0x00, 0x01, 0xEF, 0xBE, 0xAD, 0xDE, 0x02]⟩
      = .ok (.evtStatusResponse 1 9 (.whole [0x01] 0xDEADBEEF 0x02), []) := rfl
theorem test_decode_evt_error :
    decode ⟨.evt, 1, 9, [0xFF, 0x00, 0x00, 0x00, 0x00, 0x00, 0x00, 0xFF]⟩
      = .ok (.evtError 1 9 (.whole [] 0 0xFF), []) := rfl
/-- The length is 511 and the frame ends at its third byte (30_encoding.md R84; E3). -/
theorem test_decode_overlong :
    decode ⟨.cmd, 1, 9, [0x01, 0xFF, 0x01, 0x33]⟩ = .ok (.cmdMouseMoveAbs 1 9 (.overlong 511), [0x33]) := rfl
theorem test_decode_refuses_kind_07 : decode ⟨.cmd, 1, 9, [0x07, 0x00]⟩ = .error .illegalKind := rfl
theorem test_decode_refuses_event_kind_04 : decode ⟨.evt, 1, 9, [0x04, 0x00]⟩ = .error .illegalKind := rfl
theorem test_decode_refuses_operation_0a : decode ⟨.op, 1, 9, [0x0A]⟩ = .error .illegalOperation := rfl

/-! ### Words of the opcode table, and the first step after reset -/

theorem test_table_op : decodeTableWord 4 0x7 = some (.sc2vk 0x00) := by decide
theorem test_table_cmd : decodeTableWord 8 0x10 = some (.cmdStartRecording 0 0 (.whole [] 0x00)) := by decide
theorem test_step_runs_fetched_word :
    step (State.reset.withFetchWord 8 0xFF) = exec (.cmdReservedFf 0 0) State.reset := rfl

/-! ### One step each -/

/-- R150: RESET in mid-frame discards the frame without a report. -/
theorem test_reset_discards :
    (outOf (exec (.reset 0) (oneLink .cmd inPayload)), (regsOf (exec (.reset 0) (oneLink .cmd inPayload))).map (·.st))
      = (some (.reports 0 []), some .idle) := by decide
/-- R143 and E3, step 1. -/
theorem test_rx_kind :
    (regsOf (exec (.rxByte 0 0x01 1000) (oneLink .cmd Parser.afterReset)))
      = some { Parser.afterReset with st := .lenLow, kind := 0x01, cks := 0x01, t0 := 1000 } := by decide
/-- The worked example of R146. -/
theorem test_rx_payload :
    (regsOf (exec (.rxByte 0 0x04 1001) (oneLink .cmd inPayload)))
      = some { inPayload with buf := [(0, 0x04)], cnt := 1, cks := 0x00, st := .checksum } := by decide
/-- The worked example of R148. -/
theorem test_rx_checksum :
    outOf (exec (.rxByte 0 0x10 1003) (oneLink .cmd inChecksum))
      = some (.reports 0 [.frame ⟨0x10, 0, [], none, 0x10⟩]) := by decide
/-- R147: byte 3 of the timestamp is its most significant. -/
theorem test_rx_tstamp :
    (regsOf (exec (.rxByte 0 0xDE 1003) (oneLink .evt inTstamp))).map (fun p => (p.ts, p.st))
      = some (0xDEADBEEF, .checksum) := by decide
/-- The worked example of R151: T0 = 1000, FRAME_TIMEOUT = 100. -/
theorem test_tick_at_timeout :
    outOf (exec (.tick 0 1100) (oneLink .cmd inPayload)) = some (.reports 0 []) := by decide
theorem test_tick_after_timeout :
    outOf (exec (.tick 0 1101) (oneLink .cmd inPayload)) = some (.reports 0 [.stalled]) := by decide
/-- 95_test_vectors.md 2.1. -/
theorem test_xor8 : outOf (exec (.xor8 [0x12, 0x34, 0x56, 0x78]) twoLinks) = some (.byte 0x08) := by decide
theorem test_xor8_empty : outOf (exec (.xor8 []) twoLinks) = some (.byte 0x00) := by decide
theorem test_verify : outOf (exec (.verify [0x00, 0x10, 0x00, 0x10]) twoLinks) = some (.truth true) := by decide
theorem test_verify_empty : outOf (exec (.verify []) twoLinks) = some (.truth false) := by decide
/-- E1; a payload of 251 bytes is refused with no byte (R173). -/
theorem test_enc_cmd :
    outOf (exec (.encCmd 0x10 []) twoLinks) = some (.bytes [0x10, 0x00, 0x00, 0x10]) := by decide
theorem test_enc_cmd_too_long :
    outOf (exec (.encCmd 0x10 (List.replicate 251 0)) twoLinks) = some .lengthViolation := by
  simp only [exec, execEncCmd, encodeCommand, lengthViolates, List.length_replicate]; decide
/-- E2. -/
theorem test_enc_evt :
    outOf (exec (.encEvt 0x01 [0x00, 0x64, 0x00, 0xC8] 12345) twoLinks)
      = some (.bytes [0x01, 0x04, 0x00, 0x00, 0x64, 0x00, 0xC8, 0x39, 0x30, 0x00, 0x00, 0xA0]) := by decide
/-- 95_test_vectors.md 2.2: the wrap of digit 0, and the last letter. -/
theorem test_sc2vk_digit_zero : outOf (exec (.sc2vk 39) twoLinks) = some (.byte 0x30) := by decide
theorem test_sc2vk_last_letter : outOf (exec (.sc2vk 29) twoLinks) = some (.byte 0x5A) := by decide
theorem test_vk2nk_last_function_key : outOf (exec (.vk2nk 0x7B) twoLinks) = some (.byte 0xCD) := by decide
theorem test_sc2nk_arrow : outOf (exec (.sc2nk 84) twoLinks) = some (.byte 0xD8) := by decide
theorem test_sc2nk_outside : outOf (exec (.sc2nk 86) twoLinks) = some (.byte 0x00) := by decide

/-- The worked examples of R186 to R194 are delivered with their payloads. -/
theorem test_mouse_move_abs :
    outOf (exec (.cmdMouseMoveAbs 0 0 (.whole [0x00, 0x64, 0x00, 0xC8] 0xA9)) twoLinks)
      = some (.reports 0 [.frame ⟨0x01, 4, [0x00, 0x64, 0x00, 0xC8], none, 0xA9⟩]) := by decide
theorem test_mouse_move_rel :
    outOf (exec (.cmdMouseMoveRel 0 0 (.whole [0x05, 0xFB] 0xFE)) twoLinks)
      = some (.reports 0 [.frame ⟨0x02, 2, [0x05, 0xFB], none, 0xFE⟩]) := by decide
theorem test_mouse_click :
    outOf (exec (.cmdMouseClick 0 0 (.whole [0x01] 0x03)) twoLinks)
      = some (.reports 0 [.frame ⟨0x03, 1, [0x01], none, 0x03⟩]) := by decide
theorem test_keyboard_text :
    outOf (exec (.cmdKeyboardText 0 0 (.whole [0x48, 0x69] 0x27)) twoLinks)
      = some (.reports 0 [.frame ⟨0x04, 2, [0x48, 0x69], none, 0x27⟩]) := by decide
theorem test_key_press :
    outOf (exec (.cmdKeyPress 0 0 (.whole [0x04] 0x00)) twoLinks)
      = some (.reports 0 [.frame ⟨0x05, 1, [0x04], none, 0x00⟩]) := by decide
theorem test_delay :
    outOf (exec (.cmdDelay 0 0 (.whole [0xE8, 0x03] 0xEF)) twoLinks)
      = some (.reports 0 [.frame ⟨0x06, 2, [0xE8, 0x03], none, 0xEF⟩]) := by decide
theorem test_start_recording :
    outOf (exec (.cmdStartRecording 0 0 (.whole [] 0x10)) twoLinks)
      = some (.reports 0 [.frame ⟨0x10, 0, [], none, 0x10⟩]) := by decide
theorem test_stop_recording :
    outOf (exec (.cmdStopRecording 0 0 (.whole [] 0x11)) twoLinks)
      = some (.reports 0 [.frame ⟨0x11, 0, [], none, 0x11⟩]) := by decide
theorem test_status_query :
    outOf (exec (.cmdStatusQuery 0 0 (.whole [] 0x20)) twoLinks)
      = some (.reports 0 [.frame ⟨0x20, 0, [], none, 0x20⟩]) := by decide
/-- R195: discarded in IDLE, ordinary data elsewhere. -/
theorem test_reserved_ff_discarded :
    (outOf (exec (.cmdReservedFf 0 0) twoLinks), regsOf (exec (.cmdReservedFf 0 0) twoLinks))
      = (some (.reports 0 []), some Parser.afterReset) := by decide
theorem test_reserved_ff_is_data :
    (regsOf (exec (.cmdReservedFf 0 0) (oneLink .cmd inPayload))).map (·.buf) = some [(0, 0xFF)] := by decide
/-- E3: the length violation at the third byte. -/
theorem test_overlong :
    (outOf (exec (.cmdMouseMoveAbs 0 0 (.overlong 511)) twoLinks),
      (regsOf (exec (.cmdMouseMoveAbs 0 0 (.overlong 511)) twoLinks)).map (·.st))
      = (some (.reports 0 [.lengthViolation]), some .idle) := by decide
/-- The worked examples of R196 to R200. -/
theorem test_evt_mouse_move :
    outOf (exec (.evtMouseMove 1 0 (.whole [0x00, 0x64, 0x00, 0xC8] 12345 0xA0)) twoLinks)
      = some (.reports 1 [.frame ⟨0x01, 4, [0x00, 0x64, 0x00, 0xC8], some 12345, 0xA0⟩]) := by decide
theorem test_evt_mouse_click :
    outOf (exec (.evtMouseClick 1 0 (.whole [0x01] 1 0x03)) twoLinks)
      = some (.reports 1 [.frame ⟨0x02, 1, [0x01], some 1, 0x03⟩]) := by decide
theorem test_evt_keyboard_input :
    outOf (exec (.evtKeyboardInput 1 0 (.whole [0x04] 0xFFFFFFFF 0x06)) twoLinks)
      = some (.reports 1 [.frame ⟨0x03, 1, [0x04], some 0xFFFFFFFF, 0x06⟩]) := by decide
theorem test_evt_status_response :
    outOf (exec (.evtStatusResponse 1 0 (.whole [0x01] 0xDEADBEEF 0x02)) twoLinks)
      = some (.reports 1 [.frame ⟨0x20, 1, [0x01], some 0xDEADBEEF, 0x02⟩]) := by decide
theorem test_evt_error :
    outOf (exec (.evtError 1 0 (.whole [] 0 0xFF)) twoLinks)
      = some (.reports 1 [.frame ⟨0xFF, 0, [], some 0, 0xFF⟩]) := by decide

/-! ### States that meet the invariant -/

theorem consistent_afterReset_cmd : Parser.afterReset.Consistent .cmd := by constructor <;> decide
theorem consistent_afterReset_evt : Parser.afterReset.Consistent .evt := by constructor <;> decide
theorem consistent_inLenLow : inLenLow.Consistent .cmd := by constructor <;> decide
theorem consistent_inLenHigh : inLenHigh.Consistent .cmd := by constructor <;> decide
theorem consistent_inPayload : inPayload.Consistent .cmd := by constructor <;> decide
theorem consistent_inTstamp : inTstamp.Consistent .evt := by constructor <;> decide
theorem consistent_atTstamp : atTstamp.Consistent .evt := by constructor <;> decide
theorem consistent_inChecksum : inChecksum.Consistent .cmd := by constructor <;> decide
theorem consistent_inChecksumEvt : inChecksumEvt.Consistent .evt := by constructor <;> decide

/-- A run of bytes 0x00 leaves the running XOR as it is. -/
theorem xor8From_zeros (acc : Byte) (start n : Nat) : xor8From acc (Memory.readRun [] start n) = acc := by
  induction n generalizing start with
  | zero => rfl
  | succ n ih =>
    rw [Memory.readRun, xor8From_cons, show Memory.read [] start = (0 : Byte) from rfl, show acc ^^^ (0 : Byte) = acc from BitVec.xor_zero]
    exact ih (start + 1)

theorem consistent_fullCommand : fullCommand.Consistent .cmd := by
  constructor
  case runningChecksum =>
    show (0xFE : Byte) = xor8From 0x00 ([0x04, 0xFA, 0x00] ++ Memory.readRun [] 0 250)
    rw [xor8From_append, xor8From_zeros]
    decide
  all_goals decide
theorem consistent_fullEvent : fullEvent.Consistent .evt := by
  constructor
  case runningChecksum =>
    show (0xF9 : Byte) = xor8From 0x00 (([0x03, 0xFA, 0x00] ++ Memory.readRun [] 0 250) ++ [0x00, 0x00, 0x00, 0x00])
    rw [xor8From_append, xor8From_append, xor8From_zeros]
    decide
  all_goals decide

theorem consistent_oneLink {dir : Dir} {p : Parser} (h : p.Consistent dir) (ht : p.t0 < 2 ^ 32) :
    (oneLink dir p).Consistent := by
  intro k hk
  obtain rfl : k = linkOn dir p := by simpa [oneLink] using hk
  exact ⟨h, ht⟩

/-- A command link in mid-frame with one RX_BYTE pending. -/
def receiving : State := { oneLink .cmd inPayload with pending := [⟨.op, 0, 1001, [0x01, 0x04]⟩] }

/-- A command link before its checksum byte, with that byte pending. -/
def delivering : State := { oneLink .cmd inChecksum with pending := [⟨.op, 0, 1003, [0x01, 0x10]⟩] }

/-- A machine whose stream bytes begin no frame. -/
def noisy : State := { twoLinks with pending := [⟨.cmd, 0, 5, [0x07, 0x10]⟩] }

/-- A machine with a byte at the operation port that is no operation. -/
def misused : State := { twoLinks with pending := [⟨.op, 0, 5, [0x0A]⟩] }

/-- The same machine with an operation that ends before its operands do. -/
def cutShort (bytes : List Byte) : State := { twoLinks with pending := [⟨.op, 0, 5, bytes⟩] }

/-- A machine whose first request holds no bytes. -/
def emptyHanded : State := { twoLinks with pending := [⟨.cmd, 0, 5, []⟩, ⟨.op, 0, 6, [0x02]⟩] }

/-- A link whose timeout is disabled (R8). -/
def patient : State := { twoLinks with links := [{ linkOn .cmd inPayload with frameTimeout := 2 ^ 32 - 1 }] }

theorem defaultKeytab_wf : keytabWf defaultKeytab = true := by decide
/-- The default KEYTAB satisfies R128 (f): the codes 0xB0 to 0xDA of R129 are outside 0x20 to 0x7E. -/
theorem defaultKeytab_legal : keytabLegal defaultKeytab = true := by
  rw [keytabLegal, defaultKeytab_wf]; decide
/-- A KEYTAB whose enter key types the letter a breaks R128 (f), though its maps are well formed. -/
theorem test_printable_enter_is_illegal :
    keytabLegal { defaultKeytab with nkEnter := 0x61 } = false := by decide
/-- The space key may be printable (C7 of 90_conflicts.md). -/
theorem test_printable_space_is_legal : printable defaultKeytab.nkSpace = true := by decide

/-! ### For each statement with hypotheses, a state and operands that meet them -/

theorem witness_StepKeepsConsistency : receiving.Consistent ∧ ∃ t, step receiving = .next t :=
  ⟨consistent_oneLink consistent_inPayload (by decide), _, rfl⟩
theorem witness_BufferStaysCanonical :
    (∀ k ∈ (oneLink .cmd inPayload).links, Memory.wf k.regs.buf = true)
    ∧ ∃ t, exec (.rxByte 0 0x04 1001) (oneLink .cmd inPayload) = .next t := ⟨by decide, _, rfl⟩
theorem witness_StepKeepsParameters : ∃ t, step receiving = .next t := ⟨_, rfl⟩
theorem witness_RawBytesAreBounded :
    fullCommand.Consistent .cmd ∧ (rawBytes .cmd fullCommand).length = 253
    ∧ fullEvent.Consistent .evt ∧ (rawBytes .evt fullEvent).length = 257 :=
  ⟨consistent_fullCommand, by simp [rawBytes, payloadSoFar, fullCommand, Memory.readRun_length],
    consistent_fullEvent, by simp [rawBytes, payloadSoFar, fullEvent, timestampBytes, Memory.readRun_length]⟩
/-- The longest payload of a frame and the shortest illegal length. -/
theorem witness_DecodeOfEncode :
    WellFormed (.cmdDelay 0 0 (.whole (List.replicate 250 0) 0)) = true
    ∧ WellFormed (.evtError 0 0 (.whole (List.replicate 250 0) 0 0)) = true
    ∧ WellFormed (.cmdDelay 0 0 (.overlong 251)) = true ∧ WellFormed (.evtError 0 0 (.overlong 65535)) = true
    ∧ WellFormed (.encCmd 0 []) = true ∧ WellFormed (.encEvt 0 [0xFF] 0) = true := by
  simp only [WellFormed, CmdBody.wellFormed, EvtBody.wellFormed, List.length_replicate]; decide
theorem witness_DecodedBytesAreItsEncoding :
    decode ⟨.cmd, 1, 9, [0x10, 0x00, 0x00, 0x10, 0x77]⟩ = .ok (.cmdStartRecording 1 9 (.whole [] 0x10), [0x77]) := rfl
theorem witness_FrameEndIsFoundByPosition :
    WellFormed (.cmdReservedFf 0 0) = true ∧ formatOf (.cmdReservedFf 0 0) ≠ .op
    ∧ WellFormed (.evtError 0 0 (.whole [] 0 0xFF)) = true ∧ formatOf (.evtError 0 0 (.whole [] 0 0xFF)) ≠ .op := by
  decide
theorem witness_IllegalKindsBeginNoFrame :
    (0x00 : Byte) ∉ validKinds .cmd ∧ (0x07 : Byte) ∉ validKinds .cmd ∧ (0x07 : Byte) ≠ 0xFF
    ∧ (0xFE : Byte) ∉ validKinds .cmd ∧ (0x04 : Byte) ∉ validKinds .evt ∧ (0xFE : Byte) ∉ validKinds .evt := by decide
theorem witness_StepRunsDecodedInstruction :
    receiving.pending = ⟨.op, 0, 1001, [0x01, 0x04]⟩ :: []
    ∧ decode ⟨.op, 0, 1001, [0x01, 0x04]⟩ = .ok (.rxByte 0 0x04 1001, []) := ⟨rfl, rfl⟩
theorem witness_StepReceivesUnframedByte :
    noisy.pending = ⟨.cmd, 0, 5, [0x07, 0x10]⟩ :: [] ∧ Format.cmd ≠ .op
    ∧ decode ⟨.cmd, 0, 5, [0x07, 0x10]⟩ = .error .illegalKind := ⟨rfl, by decide, rfl⟩
theorem witness_StepWithoutEventWaits :
    State.reset.pending = [] ∧ emptyHanded.pending = ⟨.cmd, 0, 5, []⟩ :: [⟨.op, 0, 6, [0x02]⟩]
    ∧ (⟨.cmd, 0, 5, []⟩ : Request).bytes = [] := ⟨rfl, rfl, rfl⟩
/-- An index too high, an operand missing, a count short by one byte, at each clause's boundary. -/
theorem witness_StepRefusesNonOperation :
    misused.pending = ⟨.op, 0, 5, [0x0A]⟩ :: [] ∧ decode ⟨.op, 0, 5, [0x0A]⟩ = .error .illegalOperation
    ∧ 9 < (0x0A : Byte).toNat
    ∧ (cutShort [0x01]).pending = ⟨.op, 0, 5, [0x01]⟩ :: [] ∧ (0x01 : Byte) ∈ ([0x01, 0x07, 0x08, 0x09] : List Byte)
    ∧ (cutShort [0x05, 0x10, 0x00]).pending = ⟨.op, 0, 5, [0x05, 0x10, 0x00]⟩ :: []
    ∧ ([0x10, 0x00] : List Byte).length < 3
    ∧ (cutShort [0x05, 0x10, 0x01, 0x00]).pending = ⟨.op, 0, 5, [0x05, 0x10, 0x01, 0x00]⟩ :: []
    ∧ ([0x10, 0x01, 0x00] : List Byte) = [0x10, 0x01, 0x00] ++ []
    ∧ ([] : List Byte).length < (0x01 : Byte).toNat + 256 * (0x00 : Byte).toNat
    ∧ (cutShort [0x06, 0x20, 0, 0, 0, 0, 0x00]).pending = ⟨.op, 0, 5, [0x06, 0x20, 0, 0, 0, 0, 0x00]⟩ :: []
    ∧ ([0x20, 0, 0, 0, 0, 0x00] : List Byte).length < 7
    ∧ (cutShort [0x06, 0x20, 0, 0, 0, 0, 0x02, 0x00, 0xAA]).pending
        = ⟨.op, 0, 5, [0x06, 0x20, 0, 0, 0, 0, 0x02, 0x00, 0xAA]⟩ :: []
    ∧ ([0x20, 0, 0, 0, 0, 0x02, 0x00, 0xAA] : List Byte) = [0x20, 0, 0, 0, 0, 0x02, 0x00] ++ [0xAA]
    ∧ ([0xAA] : List Byte).length < (0x02 : Byte).toNat + 256 * (0x00 : Byte).toNat :=
  ⟨rfl, rfl, by decide⟩
theorem witness_EveryInstructionCompletes :
    twoLinks.addresses (.reset 1) ∧ twoLinks.addresses (.xor8 []) ∧ twoLinks.addresses (.evtError 1 0 (.overlong 0)) := by
  simp [State.addresses, linkOf, twoLinks]
theorem witness_MissingLinkFaults : linkOf (.reset 2) = some 2 ∧ twoLinks.links.length ≤ 2 := by decide
theorem witness_ResetOperationEmptiesParser :
    (oneLink .cmd inPayload).links[0]? = some (linkOn .cmd inPayload) := rfl
/-- One byte of each kind of branch. -/
theorem witness_RxByteInIdleTakesKind :
    twoLinks.links[1]? = some (linkOn .evt Parser.afterReset) ∧ (linkOn .evt Parser.afterReset).regs.st = .idle
    ∧ (0xFF : Byte) ∈ validKinds .evt ∧ (0xFF : Byte) ∉ validKinds .cmd := by decide
theorem witness_RxByteInLenLowStoresByte :
    (oneLink .cmd inLenLow).links[0]? = some (linkOn .cmd inLenLow) ∧ (linkOn .cmd inLenLow).regs.st = .lenLow := by decide
theorem witness_RxByteInLenHighChecksLength :
    (oneLink .cmd inLenHigh).links[0]? = some (linkOn .cmd inLenHigh) ∧ (linkOn .cmd inLenHigh).regs.st = .lenHigh
    ∧ 250 < (linkOn .cmd inLenHigh).regs.len.toNat % 256 + 256 * (0x01 : Byte).toNat
    ∧ ¬ 250 < (linkOn .cmd inLenHigh).regs.len.toNat % 256 + 256 * (0x00 : Byte).toNat := by decide
/-- The last of 250 bytes, at the highest address of BUF. -/
theorem witness_RxByteInPayloadStoresByte :
    (oneLink .cmd atLastByte).links[0]? = some (linkOn .cmd atLastByte) ∧ (linkOn .cmd atLastByte).regs.st = .payload
    ∧ (linkOn .cmd atLastByte).regs.cnt.toNat = 249 := by decide
theorem witness_RxByteStoresAtCntOnly :
    (oneLink .cmd inPayload).links[0]? = some (linkOn .cmd inPayload)
    ∧ (∃ t k, exec (.rxByte 0 0x04 1001) (oneLink .cmd inPayload) = .next t ∧ t.links[0]? = some k)
    ∧ ¬(inPayload.st = .payload ∧ 1 = inPayload.cnt.toNat) ∧ inPayload.st = .payload ∧ inPayload.cnt.toNat < 250
    ∧ Memory.wf inPayload.buf = true := ⟨rfl, ⟨_, _, rfl, rfl⟩, by decide⟩
theorem witness_RxByteInTstampStoresByte :
    (oneLink .evt inTstamp).links[0]? = some (linkOn .evt inTstamp) ∧ (linkOn .evt inTstamp).regs.st = .tstamp
    ∧ (linkOn .evt inTstamp).regs.tcnt.toNat = 3 ∧ (linkOn .evt atTstamp).regs.st = .tstamp
    ∧ (linkOn .evt atTstamp).regs.tcnt.toNat = 0 := by decide
theorem witness_RxByteInChecksumDecides :
    (oneLink .cmd inChecksum).links[0]? = some (linkOn .cmd inChecksum) ∧ (linkOn .cmd inChecksum).regs.st = .checksum
    ∧ (linkOn .cmd inChecksum).regs.cks = 0x10 ∧ (linkOn .evt inChecksumEvt).regs.st = .checksum := by decide
/-- The age 100 of the frame is not above the timeout 100, the age 101 is. -/
theorem witness_TickAbandonsStalledFrame :
    (oneLink .cmd inPayload).links[0]? = some (linkOn .cmd inPayload) ∧ inPayload.st ≠ .idle
    ∧ ¬ (100 : Int) < ((1100 : Int) - 1000) % (2 : Int) ^ 32 ∧ (100 : Int) < ((1101 : Int) - 1000) % (2 : Int) ^ 32 := by
  decide
theorem witness_LargestTimeoutNeverFires :
    patient.links[0]? = some { linkOn .cmd inPayload with frameTimeout := 2 ^ 32 - 1 }
    ∧ 2 ^ 32 - 1 + 1 = 2 ^ patient.params.clockW := by decide
theorem witness_AtMostOneReportPerEvent :
    (∃ t, exec (.rxByte 0 0x10 1003) (oneLink .cmd inChecksum) = .next t)
    ∧ (∃ t, exec (.tick 0 1101) (oneLink .cmd inPayload) = .next t) ∧ ∃ t, exec (.reset 0) twoLinks = .next t :=
  ⟨⟨_, rfl⟩, ⟨_, rfl⟩, _, rfl⟩
theorem witness_NoiseInIdleIsDiscarded :
    twoLinks.links[0]? = some (linkOn .cmd Parser.afterReset) ∧ (linkOn .cmd Parser.afterReset).regs.st = .idle
    ∧ ∀ b ∈ ([0x00, 0x07, 0xFE, 0xFF] : List Byte), b ∉ validKinds (linkOn .cmd Parser.afterReset).dir := by decide
theorem witness_EncodedFramesVerify : (List.replicate 250 (0xFF : Byte)).length ≤ 250 := by rw [List.length_replicate]
/-- The values at which the clauses of the first map's table meet. -/
theorem witness_Sc2vkFollowsItsTable :
    (4 ≤ 4 ∧ 4 ≤ 29) ∧ (4 ≤ 29 ∧ 29 ≤ 29) ∧ (30 ≤ 30 ∧ 30 ≤ 38) ∧ (30 ≤ 38 ∧ 38 ≤ 38) ∧ (58 ≤ 58 ∧ 58 ≤ 69)
    ∧ (58 ≤ 69 ∧ 69 ≤ 69) ∧ (3 : Byte).toNat < 4 ∧ (44 < (45 : Byte).toNat ∧ (57 : Byte).toNat < 58)
    ∧ (69 < (70 : Byte).toNat ∧ (81 : Byte).toNat < 82) ∧ 85 < (86 : Byte).toNat := by decide
theorem witness_Sc2vkDomain : keytabWf twoLinks.params.keytab = true := defaultKeytab_wf
theorem witness_Vk2nkFollowsItsTable :
    keytabWf twoLinks.params.keytab = true ∧ (0x5B : Byte) ∉ virtualCodes twoLinks.params.keytab
    ∧ (0x00 : Byte) ∉ virtualCodes twoLinks.params.keytab := ⟨defaultKeytab_wf, by decide⟩
theorem witness_Vk2nkDomain :
    keytabWf twoLinks.params.keytab = true ∧ (0x5A : Byte) ∈ virtualCodes twoLinks.params.keytab :=
  ⟨defaultKeytab_wf, by decide⟩
theorem witness_SpecialKeysGiveUnprintableCodes :
    keytabLegal twoLinks.params.keytab = true
    ∧ (0x7B : Byte) ∈ [twoLinks.params.keytab.vkEnter, twoLinks.params.keytab.vkEscape, twoLinks.params.keytab.vkBackspace,
        twoLinks.params.keytab.vkTab] ++ (List.range 12).map (fun n => twoLinks.params.keytab.vkF1 + BitVec.ofNat 8 n)
      ++ twoLinks.params.keytab.vkArrow.toList := ⟨defaultKeytab_legal, by decide⟩
theorem witness_Sc2nkComposesTheMaps : keytabWf twoLinks.params.keytab = true ∧ (3 : Byte).toNat ∉ scanCodes :=
  ⟨defaultKeytab_wf, by decide⟩
/-- The idle command link; the longest payload. -/
theorem witness_CommandFrameIsDelivered :
    twoLinks.links[0]? = some (linkOn .cmd Parser.afterReset) ∧ (linkOn .cmd Parser.afterReset).dir = .cmd
    ∧ Parser.afterReset.Consistent .cmd ∧ Parser.afterReset.st = .idle
    ∧ (List.replicate 250 (0xFF : Byte)).length ≤ Config.maxPayload :=
  ⟨rfl, rfl, consistent_afterReset_cmd, rfl, by rw [List.length_replicate]; decide⟩
/-- The idle event link; the longest payload. -/
theorem witness_EventFrameIsDelivered :
    twoLinks.links[1]? = some (linkOn .evt Parser.afterReset) ∧ (linkOn .evt Parser.afterReset).dir = .evt
    ∧ Parser.afterReset.Consistent .evt ∧ Parser.afterReset.st = .idle
    ∧ (List.replicate 250 (0xFF : Byte)).length ≤ Config.maxPayload :=
  ⟨rfl, rfl, consistent_afterReset_evt, rfl, by rw [List.length_replicate]; decide⟩
theorem witness_ReservedCommandCodeIsDiscarded :
    twoLinks.links[0]? = some (linkOn .cmd Parser.afterReset) ∧ (linkOn .cmd Parser.afterReset).dir = .cmd
    ∧ (linkOn .cmd Parser.afterReset).regs.st = .idle := by decide
theorem witness_WrongChecksumIsRejected :
    twoLinks.links[0]? = some (linkOn .cmd Parser.afterReset) ∧ Parser.afterReset.Consistent .cmd
    ∧ (0x11 : Byte) ≠ commandChecksum 0x10 [] ∧ twoLinks.links[1]? = some (linkOn .evt Parser.afterReset)
    ∧ Parser.afterReset.Consistent .evt ∧ (0xFE : Byte) ≠ eventChecksum 0xFF [] 0 :=
  ⟨rfl, consistent_afterReset_cmd, by decide, rfl, consistent_afterReset_evt, by decide⟩
theorem witness_OverlongFrameIsRejected :
    twoLinks.links[0]? = some (linkOn .cmd Parser.afterReset) ∧ Parser.afterReset.Consistent .cmd
    ∧ Config.maxPayload < (251 : Half).toNat ∧ twoLinks.links[1]? = some (linkOn .evt Parser.afterReset)
    ∧ Parser.afterReset.Consistent .evt ∧ Config.maxPayload < (65535 : Half).toNat :=
  ⟨rfl, consistent_afterReset_cmd, by decide, rfl, consistent_afterReset_evt, by decide⟩
/-- A payload of one byte, the highest bit, and the kinds 0x10 and 0x11 of R193. -/
theorem witness_FlippedBitOfCommandIsRejected :
    twoLinks.links[0]? = some (linkOn .cmd Parser.afterReset) ∧ Parser.afterReset.Consistent .cmd
    ∧ ([0x80] : List Byte).length ≤ Config.maxPayload ∧ 7 < 8 ∧ 0 < ([0x80] : List Byte).length
    ∧ (0x11 : Byte) ∈ validKinds .cmd ∧ flipBit 0x11 0 = 0x10 := ⟨rfl, consistent_afterReset_cmd, by decide⟩
theorem witness_FlippedBitOfTimestampIsRejected :
    twoLinks.links[1]? = some (linkOn .evt Parser.afterReset) ∧ Parser.afterReset.Consistent .evt
    ∧ ([] : List Byte).length ≤ Config.maxPayload ∧ 31 < 32 := ⟨rfl, consistent_afterReset_evt, by decide⟩
theorem witness_FrameArrivalIsItsBytes :
    formatOf (.cmdReservedFf 1 9) ≠ .op ∧ linkOf (.cmdReservedFf 1 9) = some 1 ∧ nowOf (.cmdReservedFf 1 9) = some 9
    ∧ 1 < twoLinks.links.length := by decide
theorem witness_ArrivedPayloadStandsInBuffer :
    twoLinks.links[0]? = some (linkOn .cmd Parser.afterReset) ∧ Parser.afterReset.Consistent .cmd
    ∧ (∃ t k, exec (.cmdKeyPress 0 9 (.whole [0x04] 0x00)) twoLinks = .next t ∧ t.links[0]? = some k)
    ∧ twoLinks.links[1]? = some (linkOn .evt Parser.afterReset) ∧ Parser.afterReset.Consistent .evt
    ∧ ∃ t k, exec (.evtMouseClick 1 9 (.whole [0x01] 1 0x03)) twoLinks = .next t ∧ t.links[1]? = some k :=
  ⟨rfl, consistent_afterReset_cmd, ⟨_, _, rfl, rfl⟩, rfl, consistent_afterReset_evt, _, _, rfl, rfl⟩
theorem witness_EncodedFrameRoundTrips :
    twoLinks.links[1]? = some (linkOn .evt Parser.afterReset) ∧ Parser.afterReset.Consistent .evt
    ∧ (0xFF : Byte) ∈ validKinds .evt ∧ twoLinks.links[0]? = some (linkOn .cmd Parser.afterReset)
    ∧ Parser.afterReset.Consistent .cmd ∧ (0x20 : Byte) ∈ validKinds .cmd :=
  ⟨rfl, consistent_afterReset_evt, by decide, rfl, consistent_afterReset_cmd, by decide⟩
/-- A first timestamp byte that differs from the command's checksum, and one that equals it. -/
theorem witness_EventFrameAtCommandParserIsMisparsed :
    twoLinks.links[0]? = some (linkOn .cmd Parser.afterReset) ∧ Parser.afterReset.Consistent .cmd
    ∧ wordByte 0 12345 ≠ commandChecksum 0x01 [0x00, 0x64, 0x00, 0xC8]
    ∧ wordByte 0 0xA9 = commandChecksum 0x01 [0x00, 0x64, 0x00, 0xC8] := ⟨rfl, consistent_afterReset_cmd, by decide⟩
/-- The longest payload. -/
theorem witness_CommandFrameAtEventParserWaits :
    twoLinks.links[1]? = some (linkOn .evt Parser.afterReset) ∧ (linkOn .evt Parser.afterReset).dir = .evt
    ∧ Parser.afterReset.Consistent .evt ∧ Parser.afterReset.st = .idle
    ∧ (List.replicate 250 (0xFF : Byte)).length ≤ Config.maxPayload :=
  ⟨rfl, rfl, consistent_afterReset_evt, rfl, by rw [List.length_replicate]; decide⟩
theorem witness_DeliveredFramesAreSound :
    delivering.Consistent ∧ ∃ t, step delivering = .next t
      ∧ t.out = .reports 0 [.frame ⟨0x10, 0, [], none, 0x10⟩] :=
  ⟨consistent_oneLink consistent_inChecksum (by decide), _, rfl, rfl⟩
theorem witness_InstructionTouchesOneLink :
    (∃ t, exec (.rxByte 1 0xFF 9) twoLinks = .next t) ∧ linkOf (.rxByte 1 0xFF 9) ≠ some 0
    ∧ twoLinks.links[1]? = some (linkOn .evt Parser.afterReset) := ⟨⟨_, rfl⟩, by decide⟩
theorem witness_StatelessOperationsReadOnlyKeytab :
    linkOf (.sc2nk 0x04) = none ∧ (oneLink .cmd inPayload).params.keytab = twoLinks.params.keytab := by decide
theorem witness_EventsOfTwoLinksCommute :
    linkOf (.rxByte 0 0x10 9) = some 0 ∧ linkOf (.tick 1 9) = some 1 ∧ 0 ≠ 1 ∧ 0 < twoLinks.links.length
    ∧ 1 < twoLinks.links.length := by decide

end Sys2Proof.Tests
end

