-- ==== Sys2Proof/Proofs/Checksum.lean ====
section
/-! PROOF. The Checksum Unit: XOR8 and VERIFY (40_checksum.md R100, R104). -/

namespace Sys2Proof.Machine

/-! ### The running XOR -/

/-- The model's recursion is the fold that R100 describes, for every seed. -/
theorem xor8From_eq_foldl (acc : Byte) (bytes : List Byte) :
    xor8From acc bytes = bytes.foldl (fun acc b => acc ^^^ b) acc := by
  induction bytes generalizing acc with
  | nil => rfl
  | cons b rest ih => exact ih (acc ^^^ b)

theorem xor8_eq_foldl (bytes : List Byte) : xor8 bytes = bytes.foldl (fun acc b => acc ^^^ b) 0x00 :=
  xor8From_eq_foldl 0x00 bytes

/-- The byte that comes last is folded in last. -/
theorem xor8_concat (body : List Byte) (last : Byte) : xor8 (body ++ [last]) = xor8 body ^^^ last :=
  xor8From_append 0x00 body [last]

/-- The two forms of R104 for a sequence that is not empty. -/
theorem xor8_concat_eq_zero_iff (body : List Byte) (last : Byte) :
    xor8 (body ++ [last]) = 0x00 ↔ xor8 body = last := by
  rw [xor8_concat]
  exact BitVec.xor_eq_zero_iff

/-! ### VERIFY and the two operations -/

@[simp] theorem verifyBytes_nil : verifyBytes [] = false := rfl

theorem verifyBytes_concat (body : List Byte) (last : Byte) :
    verifyBytes (body ++ [last]) = decide (xor8 body = last) := by
  simp only [verifyBytes, List.getLast?_concat, List.dropLast_concat]

theorem exec_xor8 (bytes : List Byte) (s : State) : exec (.xor8 bytes) s = .next { s with out := .byte (xor8 bytes) } :=
  rfl

theorem exec_verify (bytes : List Byte) (s : State) :
    exec (.verify bytes) s = .next { s with out := .truth (verifyBytes bytes) } := rfl

/-! ### The obligations -/

/-- Settles O33: the model takes the last byte off, and XOR with a byte is undone by the same byte. -/
theorem verifyComparesLastByte : Obligations.VerifyComparesLastByte := by
  intro body last s
  rw [← xor8_eq_foldl]
  refine ⟨?empty, ?nonempty, ?xorIsZero⟩
  case empty => rw [exec_verify, verifyBytes_nil]
  case nonempty => rw [exec_verify, verifyBytes_concat]
  case xorIsZero => exact (xor8_concat_eq_zero_iff body last).symm

/-- Settles O30, by the equality of the model's recursion with the fold. -/
theorem xor8FoldsItsBytes : Obligations.Xor8FoldsItsBytes := by
  intro bytes s
  rw [exec_xor8, xor8_eq_foldl]

end Sys2Proof.Machine
end

