-- ==== Sys2Proof/Proofs/KeyTranslator.lean ====
section
/-! PROOF. The Key Translator: the two maps row by row, and their composition (41_key_translator.md R112 to R128). The
second map is related to a table of its 57 pairs; that no virtual-key constant stands twice in it (R128 (d)) says that
every pair is found. -/

namespace Sys2Proof.Machine

/-! ### The three operations complete with the ROM's byte -/

theorem exec_sc2vk (sc : Byte) (s : State) :
    exec (.sc2vk sc) s = .next { s with out := .byte (romSc2Vk s.params.keytab sc) } := rfl

theorem exec_vk2nk (vk : Byte) (s : State) :
    exec (.vk2nk vk) s = .next { s with out := .byte (romVk2Nk s.params.keytab vk) } := rfl

theorem exec_sc2nk (sc : Byte) (s : State) :
    exec (.sc2nk sc) s
      = .next { s with out := .byte (romVk2Nk s.params.keytab (romSc2Vk s.params.keytab sc)) } := rfl

/-! ### Runs of constants -/

@[simp] theorem runCode_zero (base : Byte) : runCode base 0 = base := BitVec.add_zero base

/-- A run that does not pass 0xFF counts as the numbers do (R128 (b)). -/
theorem runCode_toNat {base : Byte} {i : Nat} (fits : base.toNat + i ≤ 0xFF) :
    (runCode base i).toNat = base.toNat + i := by
  rw [runCode, BitVec.toNat_add, BitVec.toNat_ofNat]
  omega

theorem inRun_iff (base : Byte) (n : Nat) (code : Byte) :
    inRun base n code = true ↔ base.toNat ≤ code.toNat ∧ code.toNat < base.toNat + n := decide_eq_true_iff

theorem eq_runCode_iff {base : Byte} {i : Nat} (fits : base.toNat + i ≤ 0xFF) (code : Byte) :
    code = runCode base i ↔ code.toNat = base.toNat + i := by
  rw [BitVec.toNat_eq, runCode_toNat fits]

/-- A look at the first entry of a table, as the ROM's description tests it. -/
theorem lookup_cons_eq_ite (code key value : Byte) (rest : List (Byte × Byte)) :
    ((key, value) :: rest).lookup code = if code = key then some value else rest.lookup code := by
  rw [List.lookup_cons]
  by_cases found : code = key
  · rw [if_pos found, beq_iff_eq.mpr found]
  · rw [if_neg found, beq_false_of_ne found]

/-- In a table keyed by a run, the code's offset from the base finds its entry. -/
theorem lookup_run {base : Byte} {n : Nat} (fits : base.toNat + n ≤ 0x100) (value : Nat → Byte) (code : Byte) :
    ((List.range n).map fun i => (runCode base i, value i)).lookup code
      = if inRun base n code then some (value (code.toNat - base.toNat)) else none := by
  simp only [inRun_iff]
  induction n with
  | zero => rw [if_neg (by omega)]; rfl
  | succ n ih =>
    rw [List.range_succ, List.map_append, List.lookup_append, ih (by omega)]
    by_cases earlier : base.toNat ≤ code.toNat ∧ code.toNat < base.toNat + n
    · rw [if_pos earlier, if_pos (by omega), Option.some_or]
    · rw [if_neg earlier, Option.none_or, List.map_singleton, lookup_cons_eq_ite, List.lookup_nil]
      simp only [eq_runCode_iff (base := base) (i := n) (by omega)]
      split
      case isTrue last => rw [if_pos (by omega), last, Nat.add_sub_cancel_left]
      case isFalse other => rw [if_neg (by omega)]

/-! ### The first map (R119) -/

theorem mem_map_add_range_iff (n first size : Nat) :
    n ∈ (List.range size).map (· + first) ↔ first ≤ n ∧ n < first + size := by
  simp only [List.mem_map, List.mem_range]
  exact ⟨by rintro ⟨i, _, rfl⟩; omega, fun h => ⟨n - first, by omega, by omega⟩⟩

/-- The domain as R119 tests it, range by range. -/
theorem mem_scanCodes_iff (n : Nat) : n ∈ scanCodes ↔
    (4 ≤ n ∧ n ≤ 29) ∨ (30 ≤ n ∧ n ≤ 38) ∨ n = 39 ∨ (40 ≤ n ∧ n ≤ 44) ∨ (58 ≤ n ∧ n ≤ 69) ∨ (82 ≤ n ∧ n ≤ 85) := by
  simp only [scanCodes, List.mem_append, mem_map_add_range_iff, List.mem_cons, List.not_mem_nil, or_false]
  omega

section
variable (k : KeyTab) {sc : Byte} {n : Nat}

theorem romSc2Vk_of_letter (number : sc.toNat = n) (low : 4 ≤ n) (high : n ≤ 29) :
    romSc2Vk k sc = runCode k.vkA (n - 4) := by
  simp (disch := omega) only [romSc2Vk, number, if_pos]

theorem romSc2Vk_of_digit (number : sc.toNat = n) (low : 30 ≤ n) (high : n ≤ 38) :
    romSc2Vk k sc = runCode k.vk0 (n - 29) := by
  simp (disch := omega) only [romSc2Vk, number, if_neg, if_pos]

/-- The wrap of R115: scan code 39 is the first digit of the run, not an eleventh. -/
theorem romSc2Vk_digitZero : romSc2Vk k 39 = runCode k.vk0 0 := (runCode_zero k.vk0).symm

theorem romSc2Vk_of_functionKey (number : sc.toNat = n) (low : 58 ≤ n) (high : n ≤ 69) :
    romSc2Vk k sc = runCode k.vkF1 (n - 58) := by
  simp (disch := omega) only [romSc2Vk, number, BitVec.toNat_eq, BitVec.reduceToNat, if_neg, if_pos]

theorem romSc2Vk_arrow (j : Fin 4) : romSc2Vk k (BitVec.ofNat 8 (82 + j.val)) = k.vkArrow.get j := by
  fin_cases j <;> rfl

theorem romSc2Vk_of_unsupported (h : sc.toNat ∉ scanCodes) : romSc2Vk k sc = 0x00 := by
  rw [mem_scanCodes_iff] at h
  simp (disch := omega) only [romSc2Vk, BitVec.toNat_eq, BitVec.reduceToNat, if_neg]

end

/-! ### The second map as a table of 57 pairs (R125) -/

/-- Each virtual-key constant with its native-keystroke constant (R122 to R124). -/
def keyTable (k : KeyTab) : List (Byte × Byte) :=
  ((List.range 26).map fun i => (runCode k.vkA i, runCode k.nkA i))
    ++ ((List.range 10).map fun d => (runCode k.vk0 d, runCode k.nk0 d))
    ++ [(k.vkEnter, k.nkEnter), (k.vkEscape, k.nkEscape), (k.vkBackspace, k.nkBackspace), (k.vkTab, k.nkTab),
      (k.vkSpace, k.nkSpace)]
    ++ ((List.range 12).map fun n => (runCode k.vkF1 n, nativeFunctionKey k n))
    ++ [(k.vkArrow[0], k.nkArrow[0]), (k.vkArrow[1], k.nkArrow[1]), (k.vkArrow[2], k.nkArrow[2]),
      (k.vkArrow[3], k.nkArrow[3])]

theorem toList_of_four (v : Vector Byte 4) : v.toList = [v[0], v[1], v[2], v[3]] := by
  refine List.ext_getElem (by simp) fun i bound _ => ?_
  rw [Vector.length_toList] at bound
  interval_cases i <;> simp

theorem nativeFunctionKey_eq_get (k : KeyTab) (n : Fin 12) : nativeFunctionKey k n.val = k.nkF.get n := by
  simp [nativeFunctionKey, Vector.get_eq_getElem]

theorem nativeFunctionKeys_eq (k : KeyTab) : (List.range 12).map (nativeFunctionKey k) = k.nkF.toList := by
  refine List.ext_getElem (by simp) fun i _ bound => ?_
  rw [Vector.length_toList] at bound
  rw [List.getElem_map, List.getElem_range, nativeFunctionKey_eq_get k ⟨i, bound⟩]
  simp [Vector.get_eq_getElem]

theorem keyTable_keys (k : KeyTab) : (keyTable k).map Prod.fst = virtualCodes k := by
  simp [keyTable, virtualCodes, toList_of_four, Function.comp_def]

theorem keyTable_values (k : KeyTab) : (keyTable k).map Prod.snd = nativeCodes k := by
  simp [keyTable, nativeCodes, toList_of_four, ← nativeFunctionKeys_eq, Function.comp_def]

theorem getD_ite (c : Prop) [Decidable c] (value : Byte) (rest : Option Byte) :
    (if c then some value else rest).getD 0x00 = if c then value else rest.getD 0x00 :=
  apply_ite (Option.getD · 0x00) c _ _

theorem getD_ite_or (c : Prop) [Decidable c] (value : Byte) (rest : Option Byte) :
    ((if c then some value else none).or rest).getD 0x00 = if c then value else rest.getD 0x00 := by
  split <;> rfl

/-- The tests of R125, in their order, are a search of the table: a run is one test when it does not pass 0xFF. -/
theorem romVk2Nk_eq_lookup {k : KeyTab} (fits : runsFit k = true) (vk : Byte) :
    romVk2Nk k vk = ((keyTable k).lookup vk).getD 0x00 := by
  simp only [runsFit, decide_eq_true_iff] at fits
  obtain ⟨letters, digits, functionKeys, -, -⟩ := fits
  simp only [keyTable, List.append_assoc, List.cons_append, List.nil_append, List.lookup_append, lookup_cons_eq_ite,
    List.lookup_nil, lookup_run (n := 26) (base := k.vkA) (by omega), lookup_run (n := 10) (base := k.vk0) (by omega),
    lookup_run (n := 12) (base := k.vkF1) (by omega), getD_ite_or, getD_ite]
  rfl

/-- A pair of a table in which no key stands twice is what its key finds. -/
theorem lookup_of_mem {table : List (Byte × Byte)} (distinct : (table.map Prod.fst).Nodup) {key value : Byte}
    (h : (key, value) ∈ table) : table.lookup key = some value := by
  induction table with
  | nil => cases h
  | cons entry rest ih =>
    obtain ⟨first, native⟩ := entry
    obtain ⟨fresh, distinct⟩ := List.nodup_cons.mp distinct
    rw [lookup_cons_eq_ite]
    rcases List.mem_cons.mp h with h | h
    · obtain ⟨rfl, rfl⟩ := Prod.mk.inj h
      exact if_pos rfl
    · have : key ≠ first := fun same => fresh (List.mem_map.mpr ⟨_, h, same⟩)
      rw [if_neg this, ih distinct h]

/-- Under R128 (b) and (d) the second map gives every constant of the table its partner. -/
theorem romVk2Nk_of_mem_keyTable {k : KeyTab} (wf : keytabWf k = true) {vk nk : Byte} (h : (vk, nk) ∈ keyTable k) :
    romVk2Nk k vk = nk := by
  obtain ⟨fits, -, -, distinct⟩ := (keytabWf_iff k).mp wf
  rw [← keyTable_keys] at distinct
  rw [romVk2Nk_eq_lookup fits, lookup_of_mem distinct h, Option.getD_some]

theorem romVk2Nk_of_not_mem_virtualCodes {k : KeyTab} (fits : runsFit k = true) {vk : Byte}
    (h : vk ∉ virtualCodes k) : romVk2Nk k vk = 0x00 := by
  have unlisted : (keyTable k).lookup vk = none := by
    rw [List.lookup_eq_none_iff]
    intro pair listed
    rw [bne_iff_ne]
    rintro rfl
    exact h (keyTable_keys k ▸ List.mem_map_of_mem (f := Prod.fst) listed)
  rw [romVk2Nk_eq_lookup fits, unlisted, Option.getD_none]

/-- R126: the constants are not 0, and nothing else has an entry. -/
theorem romVk2Nk_ne_zero_iff {k : KeyTab} (wf : keytabWf k = true) (vk : Byte) :
    romVk2Nk k vk ≠ 0x00 ↔ vk ∈ virtualCodes k := by
  obtain ⟨fits, -, nonzero, -⟩ := (keytabWf_iff k).mp wf
  constructor
  · exact fun h => by_contra fun unlisted => h (romVk2Nk_of_not_mem_virtualCodes fits unlisted)
  · intro h
    rw [← keyTable_keys] at h
    obtain ⟨⟨_, nk⟩, listed, rfl⟩ := List.mem_map.mp h
    rw [romVk2Nk_of_mem_keyTable wf listed]
    exact nonzero nk (keyTable_values k ▸ List.mem_map_of_mem listed)

/-- The sentinel of the first map is none of the constants, so the second keeps it (R125). -/
theorem romVk2Nk_zero {k : KeyTab} (wf : keytabWf k = true) : romVk2Nk k 0x00 = 0x00 := by
  obtain ⟨-, nonzero, -, -⟩ := (keytabWf_iff k).mp wf
  by_contra h
  exact nonzero 0x00 ((romVk2Nk_ne_zero_iff wf 0x00).mp h) rfl

/-! ### The rows of the table -/

section
variable (k : KeyTab)

theorem letter_mem_keyTable {i : Nat} (h : i < 26) : (runCode k.vkA i, runCode k.nkA i) ∈ keyTable k := by
  simp only [keyTable, List.mem_append, List.mem_map, List.mem_range]
  exact .inl (.inl (.inl (.inl ⟨i, h, rfl⟩)))

theorem digit_mem_keyTable {d : Nat} (h : d < 10) : (runCode k.vk0 d, runCode k.nk0 d) ∈ keyTable k := by
  simp only [keyTable, List.mem_append, List.mem_map, List.mem_range]
  exact .inl (.inl (.inl (.inr ⟨d, h, rfl⟩)))

theorem controlKey_mem_keyTable {pair : Byte × Byte}
    (h : pair ∈ [(k.vkEnter, k.nkEnter), (k.vkEscape, k.nkEscape), (k.vkBackspace, k.nkBackspace), (k.vkTab, k.nkTab),
      (k.vkSpace, k.nkSpace)]) : pair ∈ keyTable k := by
  simp only [keyTable, List.mem_append]
  exact .inl (.inl (.inr h))

theorem functionKey_mem_keyTable {n : Nat} (h : n < 12) :
    (runCode k.vkF1 n, nativeFunctionKey k n) ∈ keyTable k := by
  simp only [keyTable, List.mem_append, List.mem_map, List.mem_range]
  exact .inl (.inr ⟨n, h, rfl⟩)

theorem arrow_mem_keyTable (j : Fin 4) : (k.vkArrow.get j, k.nkArrow.get j) ∈ keyTable k := by
  rw [keyTable, List.mem_append]
  right
  fin_cases j <;> simp [Vector.get_eq_getElem]

end

/-! ### The composition (R127) -/

theorem mem_virtualCodes_of_mem_keyTable {k : KeyTab} {vk nk : Byte} (h : (vk, nk) ∈ keyTable k) :
    vk ∈ virtualCodes k := keyTable_keys k ▸ List.mem_map_of_mem h

/-- On its domain the first map gives a virtual-key constant (R114 to R118). -/
theorem romSc2Vk_mem_virtualCodes (k : KeyTab) {sc : Byte} (h : sc.toNat ∈ scanCodes) :
    romSc2Vk k sc ∈ virtualCodes k := by
  rcases (mem_scanCodes_iff _).mp h with
    ⟨low, high⟩ | ⟨low, high⟩ | digitZero | controlKey | ⟨low, high⟩ | arrow
  · rw [romSc2Vk_of_letter k rfl low high]
    exact mem_virtualCodes_of_mem_keyTable (letter_mem_keyTable k (by omega))
  · rw [romSc2Vk_of_digit k rfl low high]
    exact mem_virtualCodes_of_mem_keyTable (digit_mem_keyTable k (by omega))
  · obtain rfl : sc = 39 := BitVec.eq_of_toNat_eq digitZero
    rw [romSc2Vk_digitZero]
    exact mem_virtualCodes_of_mem_keyTable (digit_mem_keyTable k (by omega))
  · obtain rfl | rfl | rfl | rfl | rfl : sc = 40 ∨ sc = 41 ∨ sc = 42 ∨ sc = 43 ∨ sc = 44 := by bv_omega
    all_goals simp [virtualCodes, romSc2Vk]
  · rw [romSc2Vk_of_functionKey k rfl low high]
    exact mem_virtualCodes_of_mem_keyTable (functionKey_mem_keyTable k (by omega))
  · obtain ⟨j, rfl⟩ : ∃ j : Fin 4, sc = BitVec.ofNat 8 (82 + j.val) := ⟨⟨sc.toNat - 82, by omega⟩, by bv_omega⟩
    rw [romSc2Vk_arrow]
    exact mem_virtualCodes_of_mem_keyTable (arrow_mem_keyTable k j)

/-- A scan code outside the domain is stopped by the first map, whose 0 the second keeps. -/
theorem romVk2Nk_romSc2Vk_ne_zero_iff {k : KeyTab} (wf : keytabWf k = true) (sc : Byte) :
    romVk2Nk k (romSc2Vk k sc) ≠ 0x00 ↔ sc.toNat ∈ scanCodes := by
  constructor
  · intro h
    by_contra unlisted
    rw [romSc2Vk_of_unsupported k unlisted] at h
    exact h (romVk2Nk_zero wf)
  · exact fun h => (romVk2Nk_ne_zero_iff wf _).mpr (romSc2Vk_mem_virtualCodes k h)

/-! ### The obligations -/

/-- Settles O39: every row of R125 is a pair of the table, and no pair hides another. -/
theorem vk2nkFollowsItsTable : Obligations.Vk2nkFollowsItsTable := by
  intro s wf
  obtain ⟨fits, -⟩ := (keytabWf_iff _).mp wf
  have row {vk nk : Byte} (h : (vk, nk) ∈ keyTable s.params.keytab) :
      exec (.vk2nk vk) s = .next { s with out := .byte nk } := by
    rw [exec_vk2nk, romVk2Nk_of_mem_keyTable wf h]
  refine ⟨?letters, ?digits, ?enter, ?escape, ?backspace, ?tab, ?space, ?functionKeys, ?arrows, ?unsupported⟩
  case letters => exact fun i h => row (letter_mem_keyTable _ h)
  case digits => exact fun d h => row (digit_mem_keyTable _ h)
  case functionKeys =>
    intro n
    rw [← nativeFunctionKey_eq_get]
    exact row (functionKey_mem_keyTable _ n.isLt)
  case arrows => exact fun j => row (arrow_mem_keyTable _ j)
  case unsupported =>
    intro vk h
    rw [exec_vk2nk, romVk2Nk_of_not_mem_virtualCodes fits h]
  all_goals exact row (controlKey_mem_keyTable _ (by simp))

/-- Settles O41, by the domain of each map: the constants that the first map gives are those that the second takes. -/
theorem sc2nkComposesTheMaps : Obligations.Sc2nkComposesTheMaps := by
  intro s sc
  refine ⟨_, _, exec_sc2vk sc s, exec_vk2nk _ s, exec_sc2nk sc s, romSc2Vk_of_unsupported _, fun wf => ⟨?domain, ?zero⟩⟩
  case domain =>
    -- the 57 codes that the statement writes out are `scanCodes`, evaluated
    exact romVk2Nk_romSc2Vk_ne_zero_iff wf sc
  case zero =>
    intro h
    rw [h, romVk2Nk_zero wf]

/-- Settles O37: a scan code of each range as its number, then the ROM's row for that range. -/
theorem sc2vkFollowsItsTable : Obligations.Sc2vkFollowsItsTable := by
  intro s
  have number {n : Nat} (h : n < 256) : (BitVec.ofNat 8 n).toNat = n := Nat.mod_eq_of_lt h
  refine ⟨?letters, ?digits, rfl, rfl, rfl, rfl, rfl, rfl, ?functionKeys, ?arrows, ?unsupported⟩
  case letters =>
    intro n low high
    rw [exec_sc2vk, romSc2Vk_of_letter _ (number (by omega)) low high, runCode]
  case digits =>
    intro n low high
    rw [exec_sc2vk, romSc2Vk_of_digit _ (number (by omega)) low high, runCode]
  case functionKeys =>
    intro n low high
    rw [exec_sc2vk, romSc2Vk_of_functionKey _ (number (by omega)) low high, runCode]
  case arrows => exact fun j => by rw [exec_sc2vk, romSc2Vk_arrow]
  case unsupported =>
    intro sc h
    rw [exec_sc2vk, romSc2Vk_of_unsupported]
    rw [mem_scanCodes_iff]
    omega

end Sys2Proof.Machine
end

