-- ==== Sys2Proof/Proofs/FrameParser.lean ====
section
/-! PROOF. The Frame Parser: RESET, RX_BYTE and TICK (42_frame_parser.md R143 to R151). Each operation is first a step
of its link with the parser's function; each rule of the parser is then written in the spec's own arithmetic. -/

namespace Sys2Proof.Machine

/-! ### The three operations at a link that exists -/

section operations
variable {s : State} {link : Nat} {k : Link}

theorem exec_reset (h : s.links[link]? = some k) :
    exec (.reset link) s = .next (s.afterLink link k (parserReset k.regs) []) :=
  onLink_of_some _ h

theorem exec_tick (h : s.links[link]? = some k) (now : Nat) :
    exec (.tick link now) s = .next (s.afterLink link k
      (tickParser s.params.clockW k.frameTimeout now k.regs).1
      (tickParser s.params.clockW k.frameTimeout now k.regs).2.toList) :=
  onLink_of_some _ h

theorem exec_rxByte (h : s.links[link]? = some k) (b : Byte) (now : Nat) :
    exec (.rxByte link b now) s = .next (s.afterLink link k
      (receiveByte s.params.clockW k.dir b now k.regs).1
      (receiveByte s.params.clockW k.dir b now k.regs).2.toList) :=
  onLink_of_some _ h

end operations

/-! ### The clock (R151) -/

theorem sampleClock_lt (clockW now : Nat) : sampleClock clockW now < 2 ^ clockW :=
  Nat.mod_lt _ (Nat.two_pow_pos clockW)

/-- The age of a frame is the integer difference of the two clock values, modulo 2^CLOCK_W. -/
theorem elapsed_cast (clockW t0 now : Nat) :
    (elapsed clockW t0 now : Int) = ((now : Int) - (t0 : Int)) % (2 : Int) ^ clockW := by
  have inRange : sampleClock clockW t0 ≤ 2 ^ clockW := (sampleClock_lt clockW t0).le
  rw [Int.sub_emod]
  simp only [elapsed, Nat.cast_add, Int.natCast_emod, Nat.cast_sub inRange]
  simp only [sampleClock, Int.natCast_emod, Nat.cast_pow, Nat.cast_ofNat]
  rw [← Int.add_emod_right ((now : Int) % 2 ^ clockW - (t0 : Int) % 2 ^ clockW)]
  congr 1
  omega

/-- TICK fires on a frame in progress whose age is above the timeout, and on nothing else. -/
theorem tickParser_eq (clockW frameTimeout now : Nat) (p : Parser) :
    tickParser clockW frameTimeout now p =
      if p.st ≠ .idle ∧ (frameTimeout : Int) < ((now : Int) - (p.t0 : Int)) % (2 : Int) ^ clockW
      then raiseReport .stalled p else (p, none) := by
  simp only [tickParser, Parser.inFrame, timedOut, Bool.and_eq_true, decide_eq_true_eq, ← elapsed_cast, Int.ofNat_lt]

/-! ### The fields of a frame as numbers -/

theorem joinHalf_eq_ofNat (low high : Byte) :
    joinHalf low high = BitVec.ofNat 16 (low.toNat + 256 * high.toNat) := by
  rw [← joinHalf_toNat, BitVec.ofNat_toNat, BitVec.setWidth_eq]

theorem setLenLow_eq_ofNat (len : Half) (b : Byte) :
    setLenLow len b = BitVec.ofNat 16 (len.toNat / 256 * 256 + b.toNat) := by
  rw [setLenLow, joinHalf_eq_ofNat, highByte_toNat, Nat.add_comm, Nat.mul_comm]

theorem setLenHigh_eq_ofNat (len : Half) (b : Byte) :
    setLenHigh len b = BitVec.ofNat 16 (len.toNat % 256 + 256 * b.toNat) := by
  rw [setLenHigh, joinHalf_eq_ofNat, lowByte_toNat]

theorem joinHalf_lowByte_toNat (len : Half) (b : Byte) :
    (joinHalf (lowByte len) b).toNat = len.toNat % 256 + 256 * b.toNat := by
  rw [joinHalf_toNat, lowByte_toNat]

theorem afterPayload_eq (dir : Dir) : afterPayload dir = if dir = .evt then .tstamp else .checksum := by
  cases dir <;> rfl

/-- R149: the record handed over, its payload read byte by byte from BUF[0]. -/
theorem deliveredFrame_eq (dir : Dir) (p : Parser) (b : Byte) :
    deliveredFrame dir p b =
      { kind := p.kind
        payloadLength := p.len
        payload := (List.range p.len.toNat).map (Memory.read p.buf)
        timestamp := if dir = .evt then some p.ts else none
        checksum := b } := by
  cases dir <;> simp [deliveredFrame, Memory.readRun_eq_map]

/-! ### The rules of RX_BYTE -/

/-- IDLE never reports, whichever way the byte goes. -/
theorem rxIdle_eq (clockW : Nat) (dir : Dir) (b : Byte) (now : Nat) (p : Parser) :
    rxIdle clockW dir b now p =
      (if b ∈ validKinds dir then { p with kind := b, cks := b, t0 := now % 2 ^ clockW, st := .lenLow } else p,
        none) := by
  unfold rxIdle
  split <;> rfl

/-- LEN_HIGH, with both tests on the length as tests on a number. -/
theorem rxLenHigh_eq (dir : Dir) (b : Byte) (p : Parser) :
    rxLenHigh dir b p =
      if 250 < p.len.toNat % 256 + 256 * b.toNat then (parserReset p, some .lengthViolation)
      else
        ({ p with
            len := BitVec.ofNat 16 (p.len.toNat % 256 + 256 * b.toNat)
            cks := p.cks ^^^ b
            st := if p.len.toNat % 256 + 256 * b.toNat = 0 then (if dir = .evt then .tstamp else .checksum)
                  else .payload }, none) := by
  have zero_iff : joinHalf (lowByte p.len) b = 0 ↔ p.len.toNat % 256 + 256 * b.toNat = 0 := by
    rw [← joinHalf_lowByte_toNat]
    exact BitVec.toNat_inj.symm
  simp only [rxLenHigh, lengthViolates, Config.maxPayload, decide_eq_true_eq, joinHalf_lowByte_toNat, zero_iff,
    setLenHigh_eq_ofNat, afterPayload_eq, raiseReport]

/-- CHECKSUM resets the parser on both branches and reports exactly once. -/
theorem rxChecksum_eq (dir : Dir) (b : Byte) (p : Parser) :
    rxChecksum dir b p =
      (parserReset p, some (if b = p.cks then .frame (deliveredFrame dir p b) else .checksumMismatch)) := by
  unfold rxChecksum
  split <;> rfl

/-! ### The obligations -/

/-- Settles O26, by the age as an integer modulo 2^CLOCK_W. -/
theorem tickAbandonsStalledFrame : Obligations.TickAbandonsStalledFrame := by
  intro s link k now hk
  rw [exec_tick hk, tickParser_eq]
  split
  next stalled => rfl
  next quiet => rfl

/-- Settles O18: the registers that `parser_reset()` clears, written out. -/
theorem resetOperationEmptiesParser : Obligations.ResetOperationEmptiesParser := by
  intro s link k hk
  exact exec_reset hk

/-- Settles O19, by the rule of IDLE with the kinds of each direction written out. -/
theorem rxByteInIdleTakesKind : Obligations.RxByteInIdleTakesKind := by
  intro s link k b now hk hst
  rw [exec_rxByte hk, receiveByte_idle hst, rxIdle_eq]
  cases k.dir <;> rfl

/-- Settles O20: the high byte of the length stays as a multiple of 256. -/
theorem rxByteInLenLowStoresByte : Obligations.RxByteInLenLowStoresByte := by
  intro s link k b now hk hst
  rw [exec_rxByte hk, receiveByte_lenLow hst, rxLenLow, setLenLow_eq_ofNat]
  rfl

/-- Settles O21, by the rule of LEN_HIGH on numbers. -/
theorem rxByteInLenHighChecksLength : Obligations.RxByteInLenHighChecksLength := by
  intro s link k b now hk hst
  rw [exec_rxByte hk, receiveByte_lenHigh hst, rxLenHigh_eq]
  split
  next tooLong => rfl
  next fits => rfl

/-- Settles O22: no address bound is needed, since the statement writes with the model's own write. -/
theorem rxByteInPayloadStoresByte : Obligations.RxByteInPayloadStoresByte := by
  intro s link k b now hk hst _
  have counted : k.regs.cnt + 1 = BitVec.ofNat 8 (k.regs.cnt.toNat + 1) := by
    rw [BitVec.ofNat_add, BitVec.ofNat_toNat, BitVec.setWidth_eq]
    rfl
  rw [exec_rxByte hk, receiveByte_payload hst, rxPayload, counted, afterPayload_eq]
  rfl

/-- Settles O25, by the rule of CHECKSUM and the record it hands over. -/
theorem rxByteInChecksumDecides : Obligations.RxByteInChecksumDecides := by
  intro s link k b now hk hst
  rw [exec_rxByte hk, receiveByte_checksum hst, rxChecksum_eq, deliveredFrame_eq]
  rfl

end Sys2Proof.Machine
end

