-- ==== Sys2Proof/Proofs/FrameEncoder.lean ====
section
/-! PROOF. The Frame Encoder: ENC_CMD and ENC_EVT (43_frame_encoder.md R171, R172). The header and the timestamp bytes
are first written as numbers; each operation then answers in one of two ways, by the length of the payload alone. -/

namespace Sys2Proof.Machine

/-! ### The fields of a frame as numbers -/

/-- A length that the encoder accepts has its low byte alone: the high byte is 0 (R174). -/
theorem lenBytes_countOf {payload : List Byte} (fits : payload.length ≤ 250) :
    lenBytes (countOf payload) = [BitVec.ofNat 8 payload.length, 0x00] := by
  have count : (countOf payload).toNat = payload.length := by
    rw [countOf, BitVec.toNat_ofNat]
    omega
  have low : lowByte (countOf payload) = BitVec.ofNat 8 payload.length := by
    apply BitVec.eq_of_toNat_eq
    rw [lowByte_toNat, count, BitVec.toNat_ofNat]
  have high : highByte (countOf payload) = 0x00 := by
    apply BitVec.eq_of_toNat_eq
    rw [highByte_toNat, count]
    exact Nat.div_eq_of_lt (by omega)
  rw [lenBytes, low, high]

theorem frameHeader_eq (kind : Byte) {payload : List Byte} (fits : payload.length ≤ 250) :
    frameHeader kind payload = [kind, BitVec.ofNat 8 payload.length, 0x00] := by
  rw [frameHeader, lenBytes_countOf fits]

theorem wordByte_eq_ofNat (j : Nat) (ts : Word) : wordByte j ts = BitVec.ofNat 8 (ts.toNat / 2 ^ (8 * j)) := by
  apply BitVec.eq_of_toNat_eq
  rw [wordByte_toNat, BitVec.toNat_ofNat]

theorem timestampBytes_eq (ts : Word) :
    timestampBytes ts = [BitVec.ofNat 8 ts.toNat, BitVec.ofNat 8 (ts.toNat / 2 ^ 8),
      BitVec.ofNat 8 (ts.toNat / 2 ^ 16), BitVec.ofNat 8 (ts.toNat / 2 ^ 24)] := by
  simp only [timestampBytes, wordByte_eq_ofNat, Nat.mul_zero, pow_zero, Nat.div_one, Nat.reduceMul]

/-! ### What the encoder answers -/

/-- The test on the length that parser and encoder share is strict (R173). -/
theorem lengthViolates_iff (n : Nat) : lengthViolates n = true ↔ 250 < n := by
  rw [lengthViolates, decide_eq_true_iff, Config.maxPayload]

theorem exec_encCmd (kind : Byte) (payload : List Byte) (s : State) :
    exec (.encCmd kind payload) s = .next { s with out := encoderOutput (encodeCommand kind payload) } := rfl

theorem exec_encEvt (kind : Byte) (payload : List Byte) (timestamp : Word) (s : State) :
    exec (.encEvt kind payload timestamp) s
      = .next { s with out := encoderOutput (encodeEvent kind payload timestamp) } := rfl

@[simp] theorem encoderOutput_none : encoderOutput none = .lengthViolation := rfl

@[simp] theorem encoderOutput_some (sequence : List Byte) : encoderOutput (some sequence) = .bytes sequence := rfl

section encode
variable {payload : List Byte}

theorem encodeCommand_of_le (kind : Byte) (fits : payload.length ≤ 250) :
    encodeCommand kind payload = some (withChecksum ([kind, BitVec.ofNat 8 payload.length, 0x00] ++ payload)) := by
  rw [encodeCommand, if_neg (mt (lengthViolates_iff _).mp fits.not_gt), frameHeader_eq kind fits]

theorem encodeCommand_of_lt (kind : Byte) (tooLong : 250 < payload.length) : encodeCommand kind payload = none :=
  if_pos ((lengthViolates_iff _).mpr tooLong)

theorem encodeEvent_of_le (kind : Byte) (timestamp : Word) (fits : payload.length ≤ 250) :
    encodeEvent kind payload timestamp = some (withChecksum
      ([kind, BitVec.ofNat 8 payload.length, 0x00] ++ payload ++ timestampBytes timestamp)) := by
  rw [encodeEvent, if_neg (mt (lengthViolates_iff _).mp fits.not_gt), frameHeader_eq kind fits]

theorem encodeEvent_of_lt (kind : Byte) (timestamp : Word) (tooLong : 250 < payload.length) :
    encodeEvent kind payload timestamp = none :=
  if_pos ((lengthViolates_iff _).mpr tooLong)

end encode

/-! ### The obligations -/

/-- Settles O34: the two answers of ENC_CMD, by the length of the payload. -/
theorem encCmdBuildsFrame : Obligations.EncCmdBuildsFrame := by
  intro kind payload s
  rw [exec_encCmd]
  split
  next fits => rw [encodeCommand_of_le kind fits, encoderOutput_some, withChecksum]
  next tooLong => rw [encodeCommand_of_lt kind (not_le.mp tooLong), encoderOutput_none]

/-- Settles O35: the two answers of ENC_EVT, with the timestamp's bytes written as quotients. -/
theorem encEvtBuildsFrame : Obligations.EncEvtBuildsFrame := by
  intro kind payload timestamp s
  rw [exec_encEvt]
  split
  next fits => rw [encodeEvent_of_le kind timestamp fits, encoderOutput_some, withChecksum, timestampBytes_eq]
  next tooLong => rw [encodeEvent_of_lt kind timestamp (not_le.mp tooLong), encoderOutput_none]

end Sys2Proof.Machine
end

/-! PROOF. The statements about the block as a whole. The dispatch is said once: an instruction answers, or is an event
of one link. From it follow the invariants of the registers (10_state.md R25 to R32), what every instruction leaves
unchanged, and the arrival of frames byte by byte (42_frame_parser.md section 4). Then the decoder and the encoder as
inverses (30_encoding.md), the queue, and the remaining facts about RX_BYTE, TICK, the Checksum Unit, the Frame Encoder
and the Key Translator. -/

namespace Sys2Proof.Machine

/-! ### The dispatch, said once

An instruction either answers, and then nothing but the output changes, or it is an event of one link. -/

/-- What an instruction does to the link it addresses: the new registers and the reports. -/
def linkEvent (clockW : Nat) (i : Instr) (k : Link) : Parser × List Report :=
  match i with
  | .reset _ => (parserReset k.regs, [])
  | .tick _ now =>
    ((tickParser clockW k.frameTimeout now k.regs).1, (tickParser clockW k.frameTimeout now k.regs).2.toList)
  | .rxByte _ b now =>
    ((receiveByte clockW k.dir b now k.regs).1, (receiveByte clockW k.dir b now k.regs).2.toList)
  | i => feed clockW k.dir (encode i).bytes ((nowOf i).getD 0) k.regs

theorem feed_singleton (clockW : Nat) (dir : Dir) (b : Byte) (now : Nat) (p : Parser) :
    feed clockW dir [b] now p
      = ((receiveByte clockW dir b now p).1, (receiveByte clockW dir b now p).2.toList) := by
  rw [feed_cons, feed_nil, List.append_nil]

/-- An instruction that addresses a link is an event of that link. -/
theorem exec_of_linkOf {i : Instr} {link : Nat} (h : linkOf i = some link) (s : State) :
    exec i s = onLink link (linkEvent s.params.clockW i) s := by
  cases i with
  | xor8 | verify | encCmd | encEvt | sc2vk | vk2nk | sc2nk => cases h
  | _ => cases h; rfl

/-- The arrival of a frame, or of the reserved code, is the arrival of its bytes. -/
theorem linkEvent_of_frame {i : Instr} {now : Nat} (frame : formatOf i ≠ .op) (clock : nowOf i = some now)
    (clockW : Nat) (k : Link) : linkEvent clockW i k = feed clockW k.dir (encode i).bytes now k.regs := by
  cases i with
  | reset | rxByte | tick | xor8 | verify | encCmd | encEvt | sc2vk | vk2nk | sc2nk => exact absurd rfl frame
  | _ => cases clock; rfl

/-- What a stateless operation answers, from its operands and KEYTAB alone (10_state.md R36). -/
def answerOf (keytab : KeyTab) : Instr → Output
  | .xor8 bytes => .byte (xor8 bytes)
  | .verify bytes => .truth (verifyBytes bytes)
  | .encCmd kind payload => encoderOutput (encodeCommand kind payload)
  | .encEvt kind payload timestamp => encoderOutput (encodeEvent kind payload timestamp)
  | .sc2vk sc => .byte (romSc2Vk keytab sc)
  | .vk2nk vk => .byte (romVk2Nk keytab vk)
  | .sc2nk sc => .byte (romVk2Nk keytab (romSc2Vk keytab sc))
  | _ => .quiet

/-- The reports are a parser's output alone (10_state.md R42). -/
theorem answerOf_ne_reports (keytab : KeyTab) (i : Instr) (link : Nat) (emitted : List Report) :
    answerOf keytab i ≠ .reports link emitted := by
  have encoder (sequence : Option (List Byte)) : encoderOutput sequence ≠ .reports link emitted := by
    cases sequence <;> simp
  cases i with
  | encCmd kind payload => exact encoder _
  | encEvt kind payload timestamp => exact encoder _
  | _ => simp [answerOf]

/-- An instruction that addresses no link answers. -/
theorem exec_of_stateless {i : Instr} (h : linkOf i = none) (s : State) :
    exec i s = .next { s with out := answerOf s.params.keytab i } := by
  cases i with
  | xor8 | verify | encCmd | encEvt | sc2vk | vk2nk | sc2nk => rfl
  | _ => cases h

/-- An instruction whose link exists completes. -/
theorem exec_of_link {s : State} {i : Instr} {link : Nat} {k : Link} (address : linkOf i = some link)
    (h : s.links[link]? = some k) :
    exec i s = .next (s.afterLink link k (linkEvent s.params.clockW i k).1 (linkEvent s.params.clockW i k).2) := by
  rw [exec_of_linkOf address, onLink_of_some _ h]

/-- Everything an instruction can do when it completes. -/
theorem exec_next {i : Instr} {s t : State} (h : exec i s = .next t) :
    (linkOf i = none ∧ t = { s with out := answerOf s.params.keytab i })
    ∨ ∃ link k, linkOf i = some link ∧ s.links[link]? = some k
      ∧ t = s.afterLink link k (linkEvent s.params.clockW i k).1 (linkEvent s.params.clockW i k).2 := by
  cases address : linkOf i with
  | none =>
    rw [exec_of_stateless address, Host.Outcome.next.injEq] at h
    exact .inl ⟨rfl, h.symm⟩
  | some link =>
    rw [exec_of_linkOf address] at h
    obtain ⟨k, hk, rfl⟩ := onLink_next h
    exact .inr ⟨link, k, rfl, hk, rfl⟩

theorem fetch_wait_state {s t : State} (h : fetch s = .wait t) : t.params = s.params ∧ t.links = s.links := by
  unfold fetch at h
  split at h
  · cases h; exact ⟨rfl, rfl⟩
  · split at h
    · cases h
    · split at h <;> cases h
      exact ⟨rfl, rfl⟩

/-- Everything a step can do when it completes: the queue is read, then an instruction runs or the block waits. -/
theorem step_next {s t : State} (h : step s = .next t) :
    ∃ u : State, u.params = s.params ∧ u.links = s.links
      ∧ (t = { u with out := .quiet } ∨ ∃ i, exec i u = .next t) := by
  unfold step at h
  split at h
  case h_1 i u fetched =>
    obtain ⟨hparams, hlinks, -⟩ := fetch_run_state fetched
    exact ⟨u, hparams, hlinks, .inr ⟨i, h⟩⟩
  case h_2 u fetched =>
    obtain ⟨hparams, hlinks⟩ := fetch_wait_state fetched
    exact ⟨u, hparams, hlinks, .inl (by simpa using h.symm)⟩
  case h_3 => cases h

/-! ### What every event of a link keeps

A property of the registers that RESET and the reception of a byte keep is kept by every instruction and every step:
TICK resets or does nothing, and a frame is its bytes. -/

section keeps
variable {clockW : Nat} {P : Parser → Prop} {Q : Report → Prop}

theorem feed_keeps {dir : Dir}
    (byte : ∀ b now p, P p → P (receiveByte clockW dir b now p).1 ∧ ∀ r ∈ (receiveByte clockW dir b now p).2, Q r)
    (bytes : List Byte) (now : Nat) {p : Parser} (h : P p) :
    P (feed clockW dir bytes now p).1 ∧ ∀ r ∈ (feed clockW dir bytes now p).2, Q r := by
  induction bytes generalizing now p with
  | nil => exact ⟨h, by simp⟩
  | cons b rest ih =>
    obtain ⟨kept, first⟩ := byte b now p h
    obtain ⟨last, others⟩ := ih (now + 1) kept
    refine ⟨last, fun r hr => ?_⟩
    rw [feed_cons, List.mem_append, Option.mem_toList] at hr
    exact hr.elim (first r) (others r)

theorem linkEvent_keeps {k : Link} (reset : ∀ p, P p → P (parserReset p))
    (byte : ∀ b now p, P p → P (receiveByte clockW k.dir b now p).1 ∧ ∀ r ∈ (receiveByte clockW k.dir b now p).2, Q r)
    (stalled : Q .stalled) (i : Instr) (h : P k.regs) :
    P (linkEvent clockW i k).1 ∧ ∀ r ∈ (linkEvent clockW i k).2, Q r := by
  unfold linkEvent
  split
  case h_1 => exact ⟨reset _ h, by simp⟩
  case h_2 link now =>
    rcases tickParser_cases clockW k.frameTimeout now k.regs with ⟨fires, -, -⟩ | quiet
    · rw [fires]; exact ⟨reset _ h, by simpa using stalled⟩
    · rw [quiet]; exact ⟨h, by simp⟩
  case h_3 link b now => simpa using byte b now k.regs h
  case h_4 => exact feed_keeps byte _ _ h

end keeps

/-- A property of links that their events keep is kept by every instruction. -/
theorem exec_keeps {P : Link → Prop} {i : Instr} {s t : State} (h : exec i s = .next t)
    (event : ∀ k, P k → P { k with regs := (linkEvent s.params.clockW i k).1 }) (all : ∀ k ∈ s.links, P k) :
    ∀ k ∈ t.links, P k := by
  rcases exec_next h with ⟨-, rfl⟩ | ⟨link, k, -, hk, rfl⟩
  · exact all
  · intro k' mem
    rcases List.mem_or_eq_of_mem_set mem with other | rfl
    · exact all k' other
    · exact event k (all k (List.mem_of_getElem? hk))

/-! ### The buffer -/

/-- Only PAYLOAD writes to BUF, and it writes one byte. -/
theorem receiveByte_buf (clockW : Nat) (dir : Dir) (b : Byte) (now : Nat) (p : Parser) :
    (receiveByte clockW dir b now p).1.buf
      = if p.st = .payload then Memory.write p.buf p.cnt.toNat b else p.buf := by
  cases hst : p.st with
  | idle => rw [receiveByte_idle hst, rxIdle_eq]; split <;> rfl
  | lenLow => rw [receiveByte_lenLow hst]; rfl
  | lenHigh => rw [receiveByte_lenHigh hst, rxLenHigh_eq]; split <;> rfl
  | payload => rw [receiveByte_payload hst]; rfl
  | tstamp => rw [receiveByte_tstamp hst]; rfl
  | checksum => rw [receiveByte_checksum hst, rxChecksum_eq]; rfl

theorem receiveByte_wf (clockW : Nat) (dir : Dir) (b : Byte) (now : Nat) {p : Parser} (h : Memory.wf p.buf = true) :
    Memory.wf (receiveByte clockW dir b now p).1.buf = true := by
  rw [receiveByte_buf]
  split
  · exact Memory.write_wf h _ b
  · exact h

/-- The bytes before a write and the byte written. -/
theorem Memory.readRun_write {m : Memory} (h : Memory.wf m = true) {n : Nat} (inside : n < Config.bufSize) (b : Byte) :
    Memory.readRun (Memory.write m n b) 0 (n + 1) = Memory.readRun m 0 n ++ [b] := by
  simp only [Memory.readRun_eq_map, List.range_succ, List.map_append, List.map_singleton, Nat.zero_add,
    Memory.read_write_self h inside]
  congr 1
  refine List.map_congr_left fun addr below => ?_
  exact Memory.read_write_of_ne m n addr b (List.mem_range.mp below).ne

/-! ### The timestamp, byte by byte -/

/-- A timestamp with byte `n` set, up to and with that byte. -/
theorem take_timestampBytes_setTsByte (ts : Word) {n : Nat} (inside : n ≤ 3) (b : Byte) :
    (timestampBytes (setTsByte ts n b)).take (n + 1) = (timestampBytes ts).take n ++ [b] := by
  interval_cases n <;> simp [timestampBytes, setTsByte]

/-! ### The consistency of the registers -/

/-- The bytes of the frame in progress up to the last payload byte taken. -/
def frontBytes (p : Parser) : List Byte := [p.kind, lowByte p.len, highByte p.len] ++ payloadSoFar p

theorem parserReset_consistent (dir : Dir) {p : Parser} (h : Memory.wf p.buf = true) :
    (parserReset p).Consistent dir := by
  constructor <;> simp [rawBytes, h]

/-! Each state names the fields that its registers must meet; the other fields speak of other states. -/

section consistent
variable {dir : Dir} {p : Parser}

theorem consistent_of_lenLow (hst : p.st = .lenLow) (len : p.len = 0) (cnt : p.cnt = 0) (tcnt : p.tcnt = 0)
    (ts : p.ts = 0) (kind : p.kind ∈ validKinds dir) (cks : p.cks = xor8 [p.kind]) (wf : Memory.wf p.buf = true) :
    p.Consistent dir := by
  constructor <;> simp [*, rawBytes]

theorem consistent_of_lenHigh (hst : p.st = .lenHigh) (len : highByte p.len = 0) (cnt : p.cnt = 0) (tcnt : p.tcnt = 0)
    (ts : p.ts = 0) (kind : p.kind ∈ validKinds dir) (cks : p.cks = xor8 [p.kind, lowByte p.len])
    (wf : Memory.wf p.buf = true) : p.Consistent dir := by
  constructor <;> simp [*, rawBytes]

theorem consistent_of_payload (hst : p.st = .payload) (len : p.len.toNat ≤ Config.maxPayload)
    (cnt : p.cnt.toNat < p.len.toNat) (tcnt : p.tcnt = 0) (ts : p.ts = 0) (kind : p.kind ∈ validKinds dir)
    (cks : p.cks = xor8 (frontBytes p)) (wf : Memory.wf p.buf = true) : p.Consistent dir := by
  constructor <;> simp [*, rawBytes, frontBytes]

/-- The state after the last payload byte, with no timestamp byte taken: CHECKSUM for commands, TSTAMP for events. -/
theorem consistent_of_afterPayload (hst : p.st = afterPayload dir) (len : p.len.toNat ≤ Config.maxPayload)
    (cnt : p.cnt.toNat = p.len.toNat) (tcnt : p.tcnt = 0) (ts : p.ts = 0) (kind : p.kind ∈ validKinds dir)
    (cks : p.cks = xor8 (frontBytes p)) (wf : Memory.wf p.buf = true) : p.Consistent dir := by
  cases dir <;> constructor <;> simp [*, afterPayload, rawBytes, frontBytes]

/-- An event parser that takes the timestamp or has taken it. -/
theorem consistent_of_timestamp (hst : p.st = if p.tcnt.toNat = 4 then .checksum else .tstamp)
    (len : p.len.toNat ≤ Config.maxPayload) (cnt : p.cnt.toNat = p.len.toNat) (tcnt : p.tcnt.toNat ≤ 4)
    (kind : p.kind ∈ validKinds .evt)
    (cks : p.cks = xor8 (frontBytes p ++ (timestampBytes p.ts).take p.tcnt.toNat)) (wf : Memory.wf p.buf = true) :
    p.Consistent .evt := by
  by_cases full : p.tcnt.toNat = 4
  · rw [if_pos full] at hst
    constructor <;> simp [*, rawBytes, frontBytes]
  · rw [if_neg full] at hst
    have := Nat.lt_of_le_of_ne tcnt full
    constructor <;> simp [*, rawBytes, frontBytes]
    omega

end consistent

/-! ### The six rules keep the consistency -/

section rules
variable {clockW : Nat} {dir : Dir} {p : Parser}

theorem rxIdle_consistent (h : p.Consistent dir) (hst : p.st = .idle) (b : Byte) (now : Nat) :
    (rxIdle clockW dir b now p).1.Consistent dir := by
  obtain ⟨cnt, tcnt, -, len, -, ts⟩ := h.idleEmpty hst
  rw [rxIdle_eq]
  split
  case isTrue valid =>
    exact consistent_of_lenLow rfl len cnt tcnt ts valid (by simp [xor8_cons]) h.bufferCanonical
  case isFalse => exact h

theorem rxLenLow_consistent (h : p.Consistent dir) (hst : p.st = .lenLow) (b : Byte) :
    (rxLenLow b p).1.Consistent dir := by
  obtain ⟨tcnt, ts⟩ := h.timestampClear (.inl hst)
  have cks : p.cks = xor8 [p.kind] := by simpa [rawBytes, hst] using h.runningChecksum
  refine consistent_of_lenHigh rfl ?high (h.payloadClear (.inl hst)) tcnt ts (h.kindValid (by simp [hst])) ?cks
    h.bufferCanonical
  case high => rw [rxLenLow, setLenLow, highByte_joinHalf, h.lengthClear hst]; rfl
  case cks => simp [rxLenLow, setLenLow, cks, xor8_cons]

theorem rxLenHigh_consistent (h : p.Consistent dir) (hst : p.st = .lenHigh) (b : Byte) :
    (rxLenHigh dir b p).1.Consistent dir := by
  obtain ⟨tcnt, ts⟩ := h.timestampClear (.inr (.inl hst))
  have cnt := h.payloadClear (.inr hst)
  have kind := h.kindValid (by simp [hst])
  have cks : p.cks = xor8 [p.kind, lowByte p.len] := by simpa [rawBytes, hst] using h.runningChecksum
  unfold rxLenHigh
  split
  case isTrue tooLong => exact parserReset_consistent dir h.bufferCanonical
  case isFalse fits =>
    have bound : (joinHalf (lowByte p.len) b).toNat ≤ Config.maxPayload := by simpa [lengthViolates] using fits
    split
    case isTrue empty =>
      refine consistent_of_afterPayload rfl bound ?_ tcnt ts kind ?_ h.bufferCanonical
      · simp [setLenHigh, empty, cnt]
      · simp [frontBytes, payloadSoFar, setLenHigh, cnt, cks, xor8_cons, Memory.readRun, BitVec.xor_assoc]
    case isFalse nonempty =>
      refine consistent_of_payload rfl bound ?_ tcnt ts kind ?_ h.bufferCanonical
      · simp [setLenHigh, cnt, Nat.pos_iff_ne_zero, ← BitVec.toNat_inj] at nonempty ⊢
        exact nonempty
      · simp [frontBytes, payloadSoFar, setLenHigh, cnt, cks, xor8_cons, Memory.readRun, BitVec.xor_assoc]

theorem rxPayload_consistent (h : p.Consistent dir) (hst : p.st = .payload) (b : Byte) :
    (rxPayload dir b p).1.Consistent dir := by
  obtain ⟨tcnt, ts⟩ := h.timestampClear (.inr (.inr hst))
  have bound := h.lengthBound (.inl hst)
  have below := h.payloadOpen hst
  have kind := h.kindValid (by simp [hst])
  have wf := Memory.write_wf h.bufferCanonical p.cnt.toNat b
  have inside : p.cnt.toNat < Config.bufSize := below.trans_le bound
  have counted : (p.cnt + 1).toNat = p.cnt.toNat + 1 := by
    rw [Config.bufSize] at inside
    rw [BitVec.toNat_add]
    exact Nat.mod_eq_of_lt (by simp; omega)
  have cks : p.cks = xor8 (frontBytes p) := by simpa [rawBytes, hst, frontBytes] using h.runningChecksum
  have front : frontBytes (rxPayload dir b p).1 = frontBytes p ++ [b] := by
    simp only [frontBytes, payloadSoFar, rxPayload, counted, Memory.readRun_write h.bufferCanonical inside,
      List.append_assoc]
  have sum : (rxPayload dir b p).1.cks = xor8 (frontBytes (rxPayload dir b p).1) := by
    rw [front, xor8_concat, ← cks]; rfl
  by_cases last : p.cnt.toNat + 1 = p.len.toNat
  · exact consistent_of_afterPayload (if_pos last) bound (counted.trans last) tcnt ts kind sum wf
  · exact consistent_of_payload (if_neg last) bound (by simp only [rxPayload, counted]; omega) tcnt ts kind sum wf

theorem rxTstamp_consistent (h : p.Consistent dir) (hst : p.st = .tstamp) (b : Byte) :
    (rxTstamp b p).1.Consistent dir := by
  obtain ⟨rfl, atMost⟩ := h.tstampOpen hst
  have counted : (p.tcnt + 1).toNat = p.tcnt.toNat + 1 := by
    rw [BitVec.toNat_add]
    exact Nat.mod_eq_of_lt (by simp; omega)
  have cks : p.cks = xor8 (frontBytes p ++ (timestampBytes p.ts).take p.tcnt.toNat) := by
    simpa [rawBytes, hst, frontBytes] using h.runningChecksum
  refine consistent_of_timestamp ?_ (h.lengthBound (.inr (.inl hst))) (h.payloadFull (.inl hst)) ?_
    (h.kindValid (by simp [hst])) ?_ h.bufferCanonical
  · simp only [rxTstamp, counted]
  · simp only [rxTstamp, counted]; omega
  · simp only [rxTstamp, counted, take_timestampBytes_setTsByte p.ts atMost, ← List.append_assoc, xor8_concat]
    rw [cks]
    rfl

theorem receiveByte_consistent (h : p.Consistent dir) (b : Byte) (now : Nat) :
    (receiveByte clockW dir b now p).1.Consistent dir := by
  cases hst : p.st with
  | idle => rw [receiveByte_idle hst]; exact rxIdle_consistent h hst b now
  | lenLow => rw [receiveByte_lenLow hst]; exact rxLenLow_consistent h hst b
  | lenHigh => rw [receiveByte_lenHigh hst]; exact rxLenHigh_consistent h hst b
  | payload => rw [receiveByte_payload hst]; exact rxPayload_consistent h hst b
  | tstamp => rw [receiveByte_tstamp hst]; exact rxTstamp_consistent h hst b
  | checksum =>
    rw [receiveByte_checksum hst, rxChecksum_eq]
    exact parserReset_consistent dir h.bufferCanonical

/-- T0 is a sampled clock value or stays. -/
theorem receiveByte_t0 (h : p.t0 < 2 ^ clockW) (b : Byte) (now : Nat) :
    (receiveByte clockW dir b now p).1.t0 < 2 ^ clockW := by
  cases hst : p.st with
  | idle =>
    rw [receiveByte_idle hst, rxIdle_eq]
    split
    · exact sampleClock_lt clockW now
    · exact h
  | lenLow => rw [receiveByte_lenLow hst]; exact h
  | lenHigh => rw [receiveByte_lenHigh hst, rxLenHigh_eq]; split <;> exact h
  | payload => rw [receiveByte_payload hst]; exact h
  | tstamp => rw [receiveByte_tstamp hst]; exact h
  | checksum => rw [receiveByte_checksum hst, rxChecksum_eq]; exact h

end rules

/-! ### The frames delivered (R46, R149) -/

/-- In CHECKSUM of a consistent parser the record handed over is sound when its checksum byte is CKS. -/
theorem deliveredFrame_sound {dir : Dir} {p : Parser} (h : p.Consistent dir) (hst : p.st = .checksum) :
    (deliveredFrame dir p p.cks).Sound dir := by
  have cks := h.runningChecksum
  have full := h.payloadFull (.inr hst)
  refine ⟨h.kindValid (by simp [hst]), h.lengthBound (.inr (.inr hst)), by simp [deliveredFrame], ?_, ?_⟩
  · cases dir <;> simp [deliveredFrame]
  · cases dir with
    | cmd => simpa [rawBytes, hst, deliveredFrame, payloadSoFar, full, lenBytes] using cks
    | evt =>
      have four : p.tcnt.toNat = 4 := h.tstampFull hst rfl
      simpa [rawBytes, hst, deliveredFrame, payloadSoFar, full, lenBytes, four, timestampBytes] using cks

/-- What a report of a parser may say. -/
def Report.Sound (dir : Dir) (r : Report) : Prop := ∀ f, r = .frame f → f.Sound dir

theorem receiveByte_report_sound (clockW : Nat) {dir : Dir} {p : Parser} (h : p.Consistent dir) (b : Byte)
    (now : Nat) : ∀ r ∈ (receiveByte clockW dir b now p).2, r.Sound dir := by
  cases hst : p.st with
  | idle => rw [receiveByte_idle hst, rxIdle_eq]; simp
  | lenLow => rw [receiveByte_lenLow hst]; simp [rxLenLow]
  | lenHigh => rw [receiveByte_lenHigh hst, rxLenHigh_eq]; split <;> simp [Report.Sound]
  | payload => rw [receiveByte_payload hst]; simp [rxPayload]
  | tstamp => rw [receiveByte_tstamp hst]; simp [rxTstamp]
  | checksum =>
    rw [receiveByte_checksum hst, rxChecksum_eq]
    split
    case isTrue matching => simpa [Report.Sound, matching] using deliveredFrame_sound h hst
    case isFalse => simp [Report.Sound]

/-! ### Every instruction and every step -/

theorem linkEvent_consistent {clockW : Nat} (i : Instr) {k : Link} (h : k.Consistent clockW) :
    Link.Consistent clockW { k with regs := (linkEvent clockW i k).1 } :=
  (linkEvent_keeps (P := fun p => p.Consistent k.dir ∧ p.t0 < 2 ^ clockW) (Q := fun _ => True)
    (fun _ hp => ⟨parserReset_consistent _ hp.1.bufferCanonical, hp.2⟩)
    (fun b now _ hp => ⟨⟨receiveByte_consistent hp.1 b now, receiveByte_t0 hp.2 b now⟩, fun _ _ => trivial⟩)
    trivial i h).1

theorem linkEvent_reports_sound {clockW : Nat} (i : Instr) {k : Link} (h : k.regs.Consistent k.dir) :
    ∀ r ∈ (linkEvent clockW i k).2, r.Sound k.dir :=
  (linkEvent_keeps (P := Parser.Consistent k.dir) (fun _ hp => parserReset_consistent _ hp.bufferCanonical)
    (fun b now _ hp => ⟨receiveByte_consistent hp b now, receiveByte_report_sound clockW hp b now⟩)
    (fun _ stalled => nomatch stalled) i h).2

theorem linkEvent_wf {clockW : Nat} (i : Instr) {k : Link} (h : Memory.wf k.regs.buf = true) :
    Memory.wf (linkEvent clockW i k).1.buf = true :=
  (linkEvent_keeps (P := fun p => Memory.wf p.buf = true) (Q := fun _ => True) (fun _ hp => hp)
    (fun b now _ hp => ⟨receiveByte_wf clockW k.dir b now hp, fun _ _ => trivial⟩) trivial i h).1

/-- An instruction leaves the static parameters as they are: those of the machine and those of each link (R34). -/
theorem exec_static {i : Instr} {s t : State} (h : exec i s = .next t) :
    t.params = s.params
    ∧ t.links.map (fun k => (k.dir, k.frameTimeout)) = s.links.map (fun k => (k.dir, k.frameTimeout)) := by
  rcases exec_next h with ⟨-, rfl⟩ | ⟨link, k, -, hk, rfl⟩
  · exact ⟨rfl, rfl⟩
  · refine ⟨rfl, ?_⟩
    obtain ⟨inside, rfl⟩ := List.getElem?_eq_some_iff.mp hk
    have entry : (s.links[link].dir, s.links[link].frameTimeout)
        = (s.links.map fun k => (k.dir, k.frameTimeout))[link]'(by simpa using inside) := by simp
    rw [afterLink_links, List.map_set, entry, List.set_getElem_self]

/-! ### The obligations -/

/-- Settles O3: RESET and the reception of a byte keep the consistency, hence so does every event of a link. -/
theorem stepKeepsConsistency : Obligations.StepKeepsConsistency := by
  intro s t consistent h
  obtain ⟨u, hparams, hlinks, rfl | ⟨i, hexec⟩⟩ := step_next h
  · intro k mem
    rw [hparams]
    exact consistent k (hlinks ▸ mem)
  · obtain ⟨same, -⟩ := exec_static hexec
    rw [State.Consistent, same]
    refine exec_keeps hexec (fun k => linkEvent_consistent i) fun k mem => ?_
    rw [hparams]
    exact consistent k (hlinks ▸ mem)

/-- Settles O53: a frame is handed over in CHECKSUM alone, on a byte equal to CKS, and CKS is the XOR of the bytes. -/
theorem deliveredFramesAreSound : Obligations.DeliveredFramesAreSound := by
  intro s t link emitted f consistent h hout delivered
  obtain ⟨u, -, hlinks, rfl | ⟨i, hexec⟩⟩ := step_next h
  · cases hout
  · rcases exec_next hexec with ⟨-, rfl⟩ | ⟨l, k, -, hk, rfl⟩
    · exact absurd hout (answerOf_ne_reports _ i link emitted)
    · rw [afterLink_out] at hout
      cases hout
      rw [hlinks] at hk
      exact ⟨k, hk, linkEvent_reports_sound i (consistent k (List.mem_of_getElem? hk)).1 _ delivered f rfl⟩

/-- Settles O4: only a write changes a buffer, and a write keeps the form. -/
theorem bufferStaysCanonical : Obligations.BufferStaysCanonical := by
  intro i s t canonical h
  exact exec_keeps h (fun k => linkEvent_wf i) canonical

/-- Settles O5. -/
theorem stepKeepsParameters : Obligations.StepKeepsParameters := by
  intro s t h
  obtain ⟨u, hparams, hlinks, rfl | ⟨i, hexec⟩⟩ := step_next h
  · exact ⟨hparams, by rw [← hlinks]⟩
  · rw [← hparams, ← hlinks]
    exact exec_static hexec

/-! ### What an instruction leaves unchanged, and that it completes -/

/-- Settles O54, by the links and the static parameters that an instruction leaves. -/
theorem instructionTouchesOneLink : Obligations.InstructionTouchesOneLink := by
  intro i s t h
  obtain ⟨hparams, hstatic⟩ := exec_static h
  have number : t.links.length = s.links.length := by simpa using congrArg List.length hstatic
  have whole : t.pending = s.pending ∧ ∀ other, linkOf i ≠ some other → t.links[other]? = s.links[other]? := by
    rcases exec_next h with ⟨-, rfl⟩ | ⟨link, k, address, -, rfl⟩
    · exact ⟨rfl, fun _ _ => rfl⟩
    · refine ⟨rfl, fun other ne => ?_⟩
      rw [afterLink_links, List.getElem?_set_ne fun same => ne (by rw [address, same])]
  obtain ⟨hpending, others⟩ := whole
  refine ⟨hparams, hpending, number, others, fun link k hk => ?_⟩
  have entry := congrArg (·[link]?) hstatic
  simp only [List.getElem?_map, hk, Option.map_some, Option.map_eq_some_iff, Prod.mk.injEq] at entry
  exact entry

/-- Settles O55: what a stateless operation answers is a function of its operands and KEYTAB. -/
theorem statelessOperationsReadOnlyKeytab : Obligations.StatelessOperationsReadOnlyKeytab := by
  intro i s address
  refine ⟨answerOf s.params.keytab i, exec_of_stateless address s, fun u same => ?_⟩
  rw [exec_of_stateless address u, same]

/-- Settles O16: an answer always completes, and so does an event of a link that exists. -/
theorem everyInstructionCompletes : Obligations.EveryInstructionCompletes := by
  intro i s addressed
  cases address : linkOf i with
  | none => exact ⟨_, exec_of_stateless address s⟩
  | some link =>
    have inside := addressed link address
    exact ⟨_, exec_of_link address (List.getElem?_eq_getElem inside)⟩

/-- Settles O17. -/
theorem missingLinkFaults : Obligations.MissingLinkFaults := by
  intro i s link address missing
  rw [exec_of_linkOf address, onLink_of_none _ (List.getElem?_eq_none missing)]

/-- Settles O56: each event reads and writes its own link, and the two writes commute. -/
theorem eventsOfTwoLinksCommute : Obligations.EventsOfTwoLinksCommute := by
  intro i j s a b hi hj ne ha hb
  have hka : s.links[a]? = some s.links[a] := List.getElem?_eq_getElem ha
  have hkb : s.links[b]? = some s.links[b] := List.getElem?_eq_getElem hb
  have hkb' (regs emitted) : (s.afterLink a s.links[a] regs emitted).links[b]? = some s.links[b] := by
    rw [afterLink_links, List.getElem?_set_ne ne, hkb]
  have hka' (regs emitted) : (s.afterLink b s.links[b] regs emitted).links[a]? = some s.links[a] := by
    rw [afterLink_links, List.getElem?_set_ne ne.symm, hka]
  exact ⟨_, _, _, _, exec_of_link hi hka, exec_of_link hj (hkb' _ _), exec_of_link hj hkb, exec_of_link hi (hka' _ _),
    List.set_comm _ _ ne, rfl, rfl, rfl, rfl⟩

/-- Settles O28: each rule of the parser hands over at most one report. -/
theorem atMostOneReportPerEvent : Obligations.AtMostOneReportPerEvent := by
  intro s t link b now
  have one (r : Option Report) : r.toList.length ≤ 1 := by cases r <;> simp
  refine ⟨?event, ?reset⟩
  case event =>
    rintro (h | h)
    · obtain ⟨k, -, rfl⟩ := onLink_next h
      exact ⟨_, rfl, one _⟩
    · obtain ⟨k, -, rfl⟩ := onLink_next h
      exact ⟨_, rfl, one _⟩
  case reset =>
    intro h
    obtain ⟨k, -, rfl⟩ := onLink_next h
    rfl

/-! ### Reset and the bounds of the registers -/

/-- Settles O1: the registers of R39, as the model writes them. -/
theorem resetRegistersAreEmpty : Obligations.ResetRegistersAreEmpty := by
  refine ⟨fun k mem => ?_, rfl⟩
  simp only [State.reset, List.mem_cons, List.not_mem_nil, or_false] at mem
  rcases mem with rfl | rfl <;> exact ⟨rfl, rfl, rfl, rfl, rfl, rfl, rfl⟩

/-- The registers right after reset are those that `parser_reset()` leaves. -/
theorem afterReset_consistent (dir : Dir) : Parser.afterReset.Consistent dir :=
  parserReset_consistent (p := Parser.afterReset) dir Memory.afterReset_wf

theorem defaultKeytab_meets_r128 : keytabLegal defaultKeytab = true :=
  (keytabLegal_iff _).mpr ⟨by decide, by decide⟩

/-- Settles O2. -/
theorem resetIsConsistent : Obligations.ResetIsConsistent := by
  refine ⟨?consistent, ?timeouts, defaultKeytab_meets_r128, List.cons_ne_nil _ _⟩
  all_goals
    intro k mem
    simp only [State.reset, List.mem_cons, List.not_mem_nil, or_false] at mem
  case consistent =>
    rcases mem with rfl | rfl
    all_goals exact ⟨afterReset_consistent _, Nat.two_pow_pos _⟩
  case timeouts =>
    rcases mem with rfl | rfl
    all_goals exact (Config.frameTimeout _).isLt

/-- Settles O6: three header bytes, at most MAX_PAYLOAD payload bytes, and at most four of the timestamp. -/
theorem rawBytesAreBounded : Obligations.RawBytesAreBounded := by
  intro dir p h
  have payload : (payloadSoFar p).length = p.cnt.toNat := Memory.readRun_length _ _ _
  have stamp : ((timestampBytes p.ts).take p.tcnt.toNat).length ≤ 4 := by
    rw [List.length_take]
    exact Nat.min_le_right _ _
  cases hst : p.st with
  | idle | lenLow | lenHigh => cases dir <;> simp [rawBytes, hst]
  | payload =>
    have bound := h.lengthBound (.inl hst)
    have below := h.payloadOpen hst
    rw [Config.maxPayload] at bound
    cases dir <;> simp only [rawBytes, hst, List.length_append, List.length_cons, List.length_nil, payload] <;> omega
  | tstamp =>
    have bound := h.lengthBound (.inr (.inl hst))
    have full := h.payloadFull (.inl hst)
    obtain ⟨rfl, -⟩ := h.tstampOpen hst
    rw [Config.maxPayload] at bound
    simp only [rawBytes, hst, List.length_append, List.length_cons, List.length_nil, payload]
    omega
  | checksum =>
    have bound := h.lengthBound (.inr (.inr hst))
    have full := h.payloadFull (.inr hst)
    rw [Config.maxPayload] at bound
    cases dir <;> simp only [rawBytes, hst, List.length_append, List.length_cons, List.length_nil, payload] <;> omega

/-! ### The frame kinds as a table (R79, R80) -/

/-- The command kinds, each with its instruction. -/
def commandKinds : List ((Nat → Nat → CmdBody → Instr) × Byte) :=
  [(.cmdMouseMoveAbs, 0x01), (.cmdMouseMoveRel, 0x02), (.cmdMouseClick, 0x03), (.cmdKeyboardText, 0x04),
    (.cmdKeyPress, 0x05), (.cmdDelay, 0x06), (.cmdStartRecording, 0x10), (.cmdStopRecording, 0x11),
    (.cmdStatusQuery, 0x20)]

/-- The event kinds, each with its instruction. -/
def eventKinds : List ((Nat → Nat → EvtBody → Instr) × Byte) :=
  [(.evtMouseMove, 0x01), (.evtMouseClick, 0x02), (.evtKeyboardInput, 0x03), (.evtStatusResponse, 0x20),
    (.evtError, 0xFF)]

theorem commandKinds_bytes : commandKinds.map Prod.snd = validKinds .cmd := rfl

theorem eventKinds_bytes : eventKinds.map Prod.snd = validKinds .evt := rfl

section kinds
variable {c : (Nat → Nat → CmdBody → Instr) × Byte} {e : (Nat → Nat → EvtBody → Instr) × Byte}

theorem commandKind_valid (h : c ∈ commandKinds) : c.2 ∈ validKinds .cmd :=
  commandKinds_bytes ▸ List.mem_map_of_mem h

theorem eventKind_valid (h : e ∈ eventKinds) : e.2 ∈ validKinds .evt :=
  eventKinds_bytes ▸ List.mem_map_of_mem h

/-- A command frame as an instruction: its bytes, and the link and the clock value it carries. -/
theorem encode_commandKind (h : c ∈ commandKinds) (link now : Nat) (body : CmdBody) :
    encode (c.1 link now body) = ⟨.cmd, link, now, c.2 :: cmdBodyBytes body⟩
    ∧ linkOf (c.1 link now body) = some link ∧ nowOf (c.1 link now body) = some now
    ∧ WellFormed (c.1 link now body) = body.wellFormed := by
  fin_cases h <;> exact ⟨rfl, rfl, rfl, rfl⟩

/-- An event frame as an instruction. -/
theorem encode_eventKind (h : e ∈ eventKinds) (link now : Nat) (body : EvtBody) :
    encode (e.1 link now body) = ⟨.evt, link, now, e.2 :: evtBodyBytes body⟩
    ∧ linkOf (e.1 link now body) = some link ∧ nowOf (e.1 link now body) = some now
    ∧ WellFormed (e.1 link now body) = body.wellFormed := by
  fin_cases h <;> exact ⟨rfl, rfl, rfl, rfl⟩

variable {s : State} {link : Nat} {k : Link}

/-- A frame, or the reserved code, that arrives at a link is its bytes fed to the parser (R89). -/
theorem exec_frame {i : Instr} {now : Nat} (frame : formatOf i ≠ .op) (address : linkOf i = some link)
    (clock : nowOf i = some now) (hk : s.links[link]? = some k) :
    exec i s = .next (s.afterLink link k (feed s.params.clockW k.dir (encode i).bytes now k.regs).1
      (feed s.params.clockW k.dir (encode i).bytes now k.regs).2) := by
  rw [exec_of_link address hk, linkEvent_of_frame frame clock]

theorem exec_commandKind (h : c ∈ commandKinds) (hk : s.links[link]? = some k) (now : Nat) (body : CmdBody) :
    exec (c.1 link now body) s = .next (s.afterLink link k
      (feed s.params.clockW k.dir (c.2 :: cmdBodyBytes body) now k.regs).1
      (feed s.params.clockW k.dir (c.2 :: cmdBodyBytes body) now k.regs).2) := by
  obtain ⟨bytes, address, clock, -⟩ := encode_commandKind h link now body
  have frame : formatOf (c.1 link now body) = .cmd := congrArg Request.format bytes
  rw [exec_frame (by simp [frame]) address clock hk, bytes]

theorem exec_eventKind (h : e ∈ eventKinds) (hk : s.links[link]? = some k) (now : Nat) (body : EvtBody) :
    exec (e.1 link now body) s = .next (s.afterLink link k
      (feed s.params.clockW k.dir (e.2 :: evtBodyBytes body) now k.regs).1
      (feed s.params.clockW k.dir (e.2 :: evtBodyBytes body) now k.regs).2) := by
  obtain ⟨bytes, address, clock, -⟩ := encode_eventKind h link now body
  have frame : formatOf (e.1 link now body) = .evt := congrArg Request.format bytes
  rw [exec_frame (by simp [frame]) address clock hk, bytes]

end kinds

/-! ### A frame fed to an idle parser

The bytes are taken in the order of the wire: the header, the payload, for events the timestamp, and the checksum. -/

theorem countOf_toNat {payload : List Byte} (fits : payload.length ≤ Config.maxPayload) :
    (countOf payload).toNat = payload.length := by
  rw [Config.maxPayload] at fits
  rw [countOf, BitVec.toNat_ofNat]
  omega

theorem Memory.readRun_writeRun {m : Memory} (h : Memory.wf m = true) {payload : List Byte}
    (fits : payload.length ≤ Config.maxPayload) :
    Memory.readRun (Memory.writeRun m 0 payload) 0 payload.length = payload := by
  refine List.ext_getElem (Memory.readRun_length _ _ _) fun i _ bound => ?_
  have inside : 0 + payload.length ≤ Config.bufSize := by rw [Nat.zero_add]; exact fits
  simp [Memory.readRun_eq_map, Memory.read_writeRun h 0 payload inside, bound]

/-- The registers of an idle parser once the header and the payload of a frame are taken. -/
def Parser.takeFront (p : Parser) (clockW : Nat) (dir : Dir) (kind : Byte) (payload : List Byte) (now : Nat) : Parser :=
  { p with
    st := afterPayload dir
    kind := kind
    len := countOf payload
    cnt := BitVec.ofNat 8 payload.length
    buf := Memory.writeRun p.buf 0 payload
    cks := commandChecksum kind payload
    t0 := now % 2 ^ clockW }

/-- The registers of an idle parser once a frame has ended: what is left of it is T0 and BUF (R141). -/
def Parser.takeFrame (p : Parser) (clockW : Nat) (payload : List Byte) (now : Nat) : Parser :=
  { p with t0 := now % 2 ^ clockW, buf := Memory.writeRun p.buf 0 payload }

section feed
variable {clockW : Nat} {dir : Dir} {p : Parser}

/-- An idle parser is one that was reset (R32 (a)). -/
theorem parserReset_of_idle (h : p.Consistent dir) (hst : p.st = .idle) : parserReset p = p := by
  obtain ⟨cnt, tcnt, cks, len, kind, ts⟩ := h.idleEmpty hst
  obtain ⟨st, kind, len, cnt, buf, ts, tcnt, cks, t0⟩ := p
  simp_all [parserReset]

theorem feed_kind_lowByte (h : p.Consistent dir) (hst : p.st = .idle) {kind : Byte} (valid : kind ∈ validKinds dir)
    (low : Byte) (now : Nat) :
    feed clockW dir [kind, low] now p
      = ({ p with
            st := .lenHigh
            kind := kind
            len := joinHalf low 0
            cks := kind ^^^ low
            t0 := now % 2 ^ clockW }, []) := by
  obtain ⟨-, -, -, len, -, -⟩ := h.idleEmpty hst
  have high : highByte p.len = 0 := by rw [len]; rfl
  simp [feed_cons, receiveByte_idle hst, rxIdle_eq, valid, receiveByte_lenLow, rxLenLow, setLenLow, high]

/-- A length field above MAX_PAYLOAD ends the frame at its third byte (R145, R156). -/
theorem feed_header_overlong (h : p.Consistent dir) (hst : p.st = .idle) {kind : Byte} (valid : kind ∈ validKinds dir)
    {len : Half} (tooLong : Config.maxPayload < len.toNat) (now : Nat) :
    feed clockW dir (kind :: lenBytes len) now p = ({ p with t0 := now % 2 ^ clockW }, [.lengthViolation]) := by
  have wire : kind :: lenBytes len = [kind, lowByte len] ++ [highByte len] := rfl
  rw [wire, feed_append, feed_kind_lowByte h hst valid, feed_singleton, receiveByte_lenHigh rfl, rxLenHigh,
    lowByte_joinHalf, joinHalf_bytes, if_pos (by simpa [lengthViolates] using tooLong)]
  conv_rhs => rw [← parserReset_of_idle h hst]
  rfl

theorem feed_header (h : p.Consistent dir) (hst : p.st = .idle) {kind : Byte} (valid : kind ∈ validKinds dir)
    {len : Half} (fits : len.toNat ≤ Config.maxPayload) (now : Nat) :
    feed clockW dir (kind :: lenBytes len) now p
      = ({ p with
            st := if len = 0 then afterPayload dir else .payload
            kind := kind
            len := len
            cks := xor8 (kind :: lenBytes len)
            t0 := now % 2 ^ clockW }, []) := by
  have wire : kind :: lenBytes len = [kind, lowByte len] ++ [highByte len] := rfl
  have bounded : ¬lengthViolates len.toNat = true := by simpa [lengthViolates] using fits
  simp only [wire, feed_append, feed_kind_lowByte h hst valid, feed_singleton, receiveByte_lenHigh, rxLenHigh,
    lowByte_joinHalf, joinHalf_bytes, bounded, setLenHigh]
  simp [xor8_cons, BitVec.xor_assoc]

/-- The payload bytes go to BUF one after another, and the last one leads on (R146). -/
theorem feed_payload (hst : p.st = .payload) {payload : List Byte} (nonempty : payload ≠ [])
    (total : p.cnt.toNat + payload.length = p.len.toNat) (fits : p.len.toNat ≤ Config.maxPayload) (now : Nat) :
    feed clockW dir payload now p
      = ({ p with
            st := afterPayload dir
            buf := Memory.writeRun p.buf p.cnt.toNat payload
            cks := xor8From p.cks payload
            cnt := p.cnt + BitVec.ofNat 8 payload.length }, []) := by
  induction payload generalizing p now with
  | nil => exact absurd rfl nonempty
  | cons b rest ih =>
    have rule : receiveByte clockW dir b now p = rxPayload dir b p := receiveByte_payload hst
    rw [List.length_cons] at total
    have counted : (p.cnt + 1).toNat = p.cnt.toNat + 1 := by
      rw [Config.maxPayload] at fits
      rw [BitVec.toNat_add]
      exact Nat.mod_eq_of_lt (by simp; omega)
    cases rest with
    | nil =>
      have last : p.cnt.toNat + 1 = p.len.toNat := total
      rw [feed_singleton, rule]
      simp [rxPayload, last, Memory.writeRun]
    | cons b' rest =>
      have more : p.cnt.toNat + 1 ≠ p.len.toNat := by rw [List.length_cons] at total; omega
      have state : (rxPayload dir b p).1.st = .payload := if_neg more
      have total' : (rxPayload dir b p).1.cnt.toNat + (b' :: rest).length = (rxPayload dir b p).1.len.toNat := by
        simp only [rxPayload, counted]
        omega
      have count : p.cnt + 1 + BitVec.ofNat 8 (b' :: rest).length
          = p.cnt + BitVec.ofNat 8 (b :: b' :: rest).length := by
        rw [List.length_cons (a := b), Nat.add_comm, BitVec.ofNat_add, BitVec.add_assoc]
        rfl
      rw [feed_cons, rule, ih state (List.cons_ne_nil _ _) total' fits]
      simp only [rxPayload, counted, count, Memory.writeRun, xor8From_cons, Option.toList_none, List.nil_append]

/-- The header and the payload of a frame. -/
theorem feed_front (h : p.Consistent dir) (hst : p.st = .idle) {kind : Byte} (valid : kind ∈ validKinds dir)
    {payload : List Byte} (fits : payload.length ≤ Config.maxPayload) (now : Nat) :
    feed clockW dir (kind :: (lenBytes (countOf payload) ++ payload)) now p
      = (p.takeFront clockW dir kind payload now, []) := by
  obtain ⟨cnt, -⟩ := h.idleEmpty hst
  have count := countOf_toNat fits
  rw [← List.cons_append, feed_append, feed_header h hst valid (by rwa [count])]
  rcases eq_or_ne payload [] with rfl | nonempty
  · simp [Parser.takeFront, countOf, Memory.writeRun, commandChecksum, cnt]
  · have nonzero : countOf payload ≠ 0 := by
      intro zero
      rw [zero] at count
      exact nonempty (List.length_eq_zero_iff.mp count.symm)
    have sum : xor8From (xor8 (kind :: lenBytes (countOf payload))) payload = commandChecksum kind payload :=
      (xor8From_append 0x00 (kind :: lenBytes (countOf payload)) payload).symm
    rw [feed_payload (if_neg nonzero) nonempty (by simp [cnt, count]) (by simpa [count] using fits)]
    simp [Parser.takeFront, cnt, sum]

/-- The four timestamp bytes of an event frame (R147). -/
theorem feed_timestampBytes (hst : p.st = .tstamp) (tcnt : p.tcnt = 0) (ts : Word) (now : Nat) :
    feed clockW dir (timestampBytes ts) now p
      = ({ p with st := .checksum, ts := ts, tcnt := 4, cks := xor8From p.cks (timestampBytes ts) }, []) := by
  simp [timestampBytes, feed_cons, receiveByte_tstamp, hst, rxTstamp, tcnt, setTsByte]

theorem parserReset_takeFront (h : p.Consistent dir) (hst : p.st = .idle) (kind : Byte) (payload : List Byte)
    (now : Nat) : parserReset (p.takeFront clockW dir kind payload now) = p.takeFrame clockW payload now := by
  conv_rhs => rw [← parserReset_of_idle h hst]
  rfl

theorem takeFront_payload (h : p.Consistent dir) {payload : List Byte} (fits : payload.length ≤ Config.maxPayload)
    (kind : Byte) (now : Nat) :
    Memory.readRun (p.takeFront clockW dir kind payload now).buf 0 (countOf payload).toNat = payload := by
  rw [countOf_toNat fits]
  exact Memory.readRun_writeRun h.bufferCanonical fits

end feed

section arrival
variable {clockW : Nat} {p : Parser} {kind : Byte} {payload : List Byte}

/-- A command frame at an idle command parser: one report, decided by the checksum byte alone (R148). -/
theorem feed_commandFrame (h : p.Consistent .cmd) (hst : p.st = .idle) (valid : kind ∈ validKinds .cmd)
    (fits : payload.length ≤ Config.maxPayload) (checksum : Byte) (now : Nat) :
    feed clockW .cmd (kind :: cmdBodyBytes (.whole payload checksum)) now p
      = (p.takeFrame clockW payload now,
        [if checksum = commandChecksum kind payload then
            .frame { kind := kind, payloadLength := countOf payload, payload := payload, timestamp := none,
                     checksum := checksum }
          else .checksumMismatch]) := by
  have record : deliveredFrame .cmd (p.takeFront clockW .cmd kind payload now) checksum
      = { kind := kind, payloadLength := countOf payload, payload := payload, timestamp := none,
          checksum := checksum } :=
    congrArg (Frame.mk kind (countOf payload) · none checksum) (takeFront_payload h fits kind now)
  rw [cmdBodyBytes, ← List.cons_append, feed_append, feed_front h hst valid fits, feed_singleton,
    receiveByte_checksum rfl, rxChecksum_eq, record, parserReset_takeFront h hst]
  rfl

/-- The bytes of an event frame before its checksum, at an idle event parser. -/
theorem feed_eventFront (h : p.Consistent .evt) (hst : p.st = .idle) (valid : kind ∈ validKinds .evt)
    (fits : payload.length ≤ Config.maxPayload) (timestamp : Word) (now : Nat) :
    feed clockW .evt (kind :: (lenBytes (countOf payload) ++ payload ++ timestampBytes timestamp)) now p
      = ({ p.takeFront clockW .evt kind payload now with
            st := .checksum, ts := timestamp, tcnt := 4, cks := eventChecksum kind payload timestamp }, []) := by
  obtain ⟨-, tcnt, -⟩ := h.idleEmpty hst
  have sum : xor8From (commandChecksum kind payload) (timestampBytes timestamp)
      = eventChecksum kind payload timestamp :=
    (xor8From_append 0x00 (kind :: (lenBytes (countOf payload) ++ payload)) (timestampBytes timestamp)).symm
  have stamp (later : Nat) := feed_timestampBytes (clockW := clockW) (dir := .evt)
    (p := p.takeFront clockW .evt kind payload now) rfl tcnt timestamp later
  rw [← List.cons_append, feed_append, feed_front h hst valid fits, stamp, ← sum]
  rfl

/-- An event frame at an idle event parser. -/
theorem feed_eventFrame (h : p.Consistent .evt) (hst : p.st = .idle) (valid : kind ∈ validKinds .evt)
    (fits : payload.length ≤ Config.maxPayload) (timestamp : Word) (checksum : Byte) (now : Nat) :
    feed clockW .evt (kind :: evtBodyBytes (.whole payload timestamp checksum)) now p
      = (p.takeFrame clockW payload now,
        [if checksum = eventChecksum kind payload timestamp then
            .frame { kind := kind, payloadLength := countOf payload, payload := payload, timestamp := some timestamp,
                     checksum := checksum }
          else .checksumMismatch]) := by
  have read := takeFront_payload (clockW := clockW) h fits kind now
  rw [evtBodyBytes, ← List.cons_append, feed_append, feed_eventFront h hst valid fits, feed_singleton,
    receiveByte_checksum rfl, rxChecksum_eq, ← parserReset_takeFront h hst kind]
  simp only [deliveredFrame, Parser.takeFront] at read ⊢
  rw [read]
  rfl

end arrival

/-! ### A frame that arrives at an idle parser of its direction -/

section arrivalAtLink
variable {s : State} {link : Nat} {k : Link} {payload : List Byte} {c : (Nat → Nat → CmdBody → Instr) × Byte}
  {e : (Nat → Nat → EvtBody → Instr) × Byte}

theorem exec_commandFrame (hc : c ∈ commandKinds) (hk : s.links[link]? = some k) (dir : k.dir = .cmd)
    (consistent : k.regs.Consistent .cmd) (hst : k.regs.st = .idle) (fits : payload.length ≤ Config.maxPayload)
    (now : Nat) (checksum : Byte) :
    exec (c.1 link now (.whole payload checksum)) s
      = .next (s.afterLink link k (k.regs.takeFrame s.params.clockW payload now)
        [if checksum = commandChecksum c.2 payload then
            .frame { kind := c.2, payloadLength := countOf payload, payload := payload, timestamp := none,
                     checksum := checksum }
          else .checksumMismatch]) := by
  rw [exec_commandKind hc hk, dir, feed_commandFrame consistent hst (commandKind_valid hc) fits]

theorem exec_eventFrame (he : e ∈ eventKinds) (hk : s.links[link]? = some k) (dir : k.dir = .evt)
    (consistent : k.regs.Consistent .evt) (hst : k.regs.st = .idle) (fits : payload.length ≤ Config.maxPayload)
    (now : Nat) (timestamp : Word) (checksum : Byte) :
    exec (e.1 link now (.whole payload timestamp checksum)) s
      = .next (s.afterLink link k (k.regs.takeFrame s.params.clockW payload now)
        [if checksum = eventChecksum e.2 payload timestamp then
            .frame { kind := e.2, payloadLength := countOf payload, payload := payload, timestamp := some timestamp,
                     checksum := checksum }
          else .checksumMismatch]) := by
  rw [exec_eventKind he hk, dir, feed_eventFrame consistent hst (eventKind_valid he) fits]

end arrivalAtLink

/-- Settles O42: the bytes before the checksum leave their XOR in CKS, so the right checksum byte delivers. -/
theorem commandFrameIsDelivered : Obligations.CommandFrameIsDelivered := by
  intro s link k now payload hk dir consistent hst fits c hc
  rw [exec_commandFrame (c := c) hc hk dir consistent hst fits, if_pos rfl, Parser.takeFrame]

/-- Settles O43, as for command frames, with the timestamp between payload and checksum. -/
theorem eventFrameIsDelivered : Obligations.EventFrameIsDelivered := by
  intro s link k now payload timestamp hk dir consistent hst fits e he
  rw [exec_eventFrame (e := e) he hk dir consistent hst fits, if_pos rfl, Parser.takeFrame]

/-- Settles O45, by the other branch of the same decision. -/
theorem wrongChecksumIsRejected : Obligations.WrongChecksumIsRejected := by
  intro s link k now payload timestamp checksum hk consistent hst fits
  refine ⟨fun dir c hc wrong => ?command, fun dir e he wrong => ?event⟩
  all_goals rw [dir] at consistent
  case command => rw [exec_commandFrame (c := c) hc hk dir consistent hst fits, if_neg wrong, Parser.takeFrame]
  case event => rw [exec_eventFrame (e := e) he hk dir consistent hst fits, if_neg wrong, Parser.takeFrame]

/-- Settles O46: the frame ends at its length field, whatever its kind. -/
theorem overlongFrameIsRejected : Obligations.OverlongFrameIsRejected := by
  intro s link k now len hk consistent hst tooLong
  refine ⟨fun dir ctor mem => ?command, fun dir ctor mem => ?event⟩
  all_goals rw [dir] at consistent
  case command =>
    obtain ⟨c, hc, rfl⟩ := List.mem_map.mp (show ctor ∈ commandKinds.map Prod.fst from mem)
    rw [exec_commandKind hc hk, dir, cmdBodyBytes, feed_header_overlong consistent hst (commandKind_valid hc) tooLong]
  case event =>
    obtain ⟨e, he, rfl⟩ := List.mem_map.mp (show ctor ∈ eventKinds.map Prod.fst from mem)
    rw [exec_eventKind he hk, dir, evtBodyBytes, feed_header_overlong consistent hst (eventKind_valid he) tooLong]

/-- Settles O50: whatever the checksum byte, an arrived frame leaves its payload in BUF. -/
theorem arrivedPayloadStandsInBuffer : Obligations.ArrivedPayloadStandsInBuffer := by
  intro s t link k k' i payload now addr hk consistent hst fits arrived h hk'
  have arrival : ∃ emitted,
      exec i s = .next (s.afterLink link k (k.regs.takeFrame s.params.clockW payload now) emitted) := by
    rcases arrived with ⟨dir, checksum, mem⟩ | ⟨dir, timestamp, checksum, mem⟩
    all_goals
      rw [dir] at consistent
      obtain ⟨ctor, listed, rfl⟩ := List.mem_map.mp mem
    · obtain ⟨c, hc, rfl⟩ := List.mem_map.mp (show ctor ∈ commandKinds.map Prod.fst from listed)
      exact ⟨_, exec_commandFrame hc hk dir consistent hst fits now checksum⟩
    · obtain ⟨e, he, rfl⟩ := List.mem_map.mp (show ctor ∈ eventKinds.map Prod.fst from listed)
      exact ⟨_, exec_eventFrame he hk dir consistent hst fits now timestamp checksum⟩
  obtain ⟨emitted, arrival⟩ := arrival
  obtain rfl := Host.Outcome.next.inj (h.symm.trans arrival)
  rw [afterLink_links, List.getElem?_set_self (List.getElem?_eq_some_iff.mp hk).1, Option.some_inj] at hk'
  have inside : 0 + payload.length ≤ Config.bufSize := by rw [Nat.zero_add]; exact fits
  rw [← hk', Parser.takeFrame, Memory.read_writeRun consistent.bufferCanonical 0 payload inside]
  simp

/-! ### Byte after byte (R89) -/

section run
variable {s : State} {link : Nat} {k : Link}

/-- RX_BYTE after RX_BYTE at a link is the feed of its parser: nothing but that link's registers and the output
changes. -/
theorem receiveRun_eq_feed (hk : s.links[link]? = some k) (bytes : List Byte) (now : Nat) :
    ∃ out, receiveRun link bytes now s
      = some ({ s with
                links := s.links.set link { k with regs := (feed s.params.clockW k.dir bytes now k.regs).1 }
                out := out }, (feed s.params.clockW k.dir bytes now k.regs).2) := by
  induction bytes generalizing s k now with
  | nil =>
    refine ⟨s.out, ?_⟩
    have same : s.links.set link k = s.links := congrArg State.links (afterLink_self s link k [] hk)
    rw [receiveRun, feed_nil, same]
  | cons b rest ih =>
    have inside := (List.getElem?_eq_some_iff.mp hk).1
    obtain ⟨out, run⟩ := ih (s := s.afterLink link k (receiveByte s.params.clockW k.dir b now k.regs).1
      (receiveByte s.params.clockW k.dir b now k.regs).2.toList) (List.getElem?_set_self inside) (now + 1)
    refine ⟨out, ?_⟩
    simp only [receiveRun, exec_rxByte hk, afterLink_out, run, afterLink_params, afterLink_links, List.set_set,
      feed_cons]
    rfl

/-- A sequence that reports at its last byte alone: the run up to there is quiet, and the last byte reports. -/
theorem exec_lastByte (hk : s.links[link]? = some k) {front : List Byte} {last : Byte} {now : Nat} {regs : Parser}
    {report : Report} (quiet : (feed s.params.clockW k.dir front now k.regs).2 = [])
    (whole : feed s.params.clockW k.dir (front ++ [last]) now k.regs = (regs, [report])) :
    ∃ t, receiveRun link front now s = some (t, [])
      ∧ exec (.rxByte link last (now + front.length)) t = .next (s.afterLink link k regs [report]) := by
  have inside := (List.getElem?_eq_some_iff.mp hk).1
  obtain ⟨out, run⟩ := receiveRun_eq_feed hk front now
  rw [quiet] at run
  refine ⟨_, run, ?_⟩
  simp only [feed_append, feed_singleton, quiet, List.nil_append, Prod.mk.injEq] at whole
  obtain ⟨hregs, hreport⟩ := whole
  rw [exec_rxByte (List.getElem?_set_self inside)]
  simp only [hregs, hreport, State.afterLink, List.set_set]

/-- A byte that is no valid kind changes nothing in IDLE (R143). -/
theorem exec_rxByte_noise (hk : s.links[link]? = some k) (hst : k.regs.st = .idle) {b : Byte}
    (noise : b ∉ validKinds k.dir) (now : Nat) :
    exec (.rxByte link b now) s = .next { s with out := .reports link [] } := by
  rw [exec_rxByte hk, receiveByte_idle hst, rxIdle_eq, if_neg noise]
  exact congrArg Host.Outcome.next (afterLink_self s link k [] hk)

theorem receiveRun_noise (hk : s.links[link]? = some k) (hst : k.regs.st = .idle) (b : Byte) (rest : List Byte)
    (noise : ∀ x ∈ b :: rest, x ∉ validKinds k.dir) (now : Nat) :
    receiveRun link (b :: rest) now s = some ({ s with out := .reports link [] }, []) := by
  induction rest generalizing s b now with
  | nil => simp [receiveRun, exec_rxByte_noise hk hst (noise b (by simp))]
  | cons b' rest ih =>
    have later := ih (s := { s with out := .reports link [] }) hk b' (fun x mem => noise x (by simp [mem])) (now + 1)
    rw [receiveRun, exec_rxByte_noise hk hst (noise b (by simp))]
    simp [later]

end run

/-- Settles O49: a frame is its bytes fed to the parser, and so is a run of RX_BYTE. -/
theorem frameArrivalIsItsBytes : Obligations.FrameArrivalIsItsBytes := by
  intro i s link now frame address clock inside
  have hk : s.links[link]? = some s.links[link] := List.getElem?_eq_getElem inside
  obtain ⟨out, run⟩ := receiveRun_eq_feed hk (encode i).bytes now
  exact ⟨_, _, run, exec_frame frame address clock hk⟩

/-- Settles O29, by induction over the noise. -/
theorem noiseInIdleIsDiscarded : Obligations.NoiseInIdleIsDiscarded := by
  intro bytes s link k now hk hst noise
  cases bytes with
  | nil => exact ⟨s, rfl, rfl⟩
  | cons b rest => exact ⟨_, receiveRun_noise hk hst b rest noise now, rfl⟩

/-- The reserved code is one byte, received like any other (R195). -/
theorem exec_cmdReservedFf {s : State} {link : Nat} {k : Link} (hk : s.links[link]? = some k) (now : Nat) :
    exec (.cmdReservedFf link now) s = exec (.rxByte link 0xFF now) s := by
  rw [exec_rxByte hk, exec_frame (by simp [formatOf]) rfl rfl hk]
  exact congrArg (fun r => Host.Outcome.next (s.afterLink link k r.1 r.2)) (feed_singleton _ _ _ _ _)

/-- Settles O44: in the command direction neither 0xFF nor 0x00 is a valid kind. -/
theorem reservedCommandCodeIsDiscarded : Obligations.ReservedCommandCodeIsDiscarded := by
  intro s link k now hk
  refine ⟨fun dir hst => ?_, exec_cmdReservedFf hk now, rfl⟩
  have noise : ∀ b ∈ [(0xFF : Byte), 0x00, 0x00, 0xFF], b ∉ validKinds k.dir := by rw [dir]; decide
  constructor
  · rw [exec_cmdReservedFf hk, exec_rxByte_noise hk hst (noise 0xFF (by simp))]
  · exact receiveRun_noise hk hst 0xFF [0x00, 0x00, 0xFF] noise now

/-! ### The round trip (R154) -/

/-- The encoder's frame of a legal payload is that of the wire (R70, R171). -/
theorem encodeCommand_eq {payload : List Byte} (fits : payload.length ≤ Config.maxPayload) (kind : Byte) :
    encodeCommand kind payload
      = some (kind :: (lenBytes (countOf payload) ++ payload) ++ [commandChecksum kind payload]) :=
  if_neg (mt (lengthViolates_iff _).mp fits.not_gt)

theorem encodeEvent_eq {payload : List Byte} (fits : payload.length ≤ Config.maxPayload) (kind : Byte)
    (timestamp : Word) :
    encodeEvent kind payload timestamp
      = some (kind :: (lenBytes (countOf payload) ++ payload ++ timestampBytes timestamp)
        ++ [eventChecksum kind payload timestamp]) :=
  if_neg (mt (lengthViolates_iff _).mp fits.not_gt)

/-- Settles O51: the bytes before the checksum are taken quietly, and the checksum byte is the one expected. -/
theorem encodedFrameRoundTrips : Obligations.EncodedFrameRoundTrips := by
  intro s link k now kind payload timestamp hk consistent hst valid fits
  cases dir : k.dir with
  | cmd =>
    rw [dir] at consistent valid
    have quiet : (feed s.params.clockW k.dir (kind :: (lenBytes (countOf payload) ++ payload)) now k.regs).2 = [] := by
      rw [dir, feed_front consistent hst valid fits]
    have whole := feed_commandFrame (clockW := s.params.clockW) consistent hst valid fits
      (commandChecksum kind payload) now
    rw [if_pos rfl, ← dir] at whole
    obtain ⟨t, run, last⟩ := exec_lastByte hk quiet whole
    refine ⟨_, _, t, ?_, run, last⟩
    exact (exec_encCmd kind payload s).trans (by rw [encodeCommand_eq fits]; rfl)
  | evt =>
    rw [dir] at consistent valid
    have quiet : (feed s.params.clockW k.dir
        (kind :: (lenBytes (countOf payload) ++ payload ++ timestampBytes timestamp)) now k.regs).2 = [] := by
      rw [dir, feed_eventFront consistent hst valid fits]
    have whole := feed_eventFrame (clockW := s.params.clockW) consistent hst valid fits timestamp
      (eventChecksum kind payload timestamp) now
    rw [if_pos rfl, ← dir] at whole
    obtain ⟨t, run, last⟩ := exec_lastByte hk quiet whole
    refine ⟨_, _, t, ?_, run, last⟩
    exact (exec_encEvt kind payload timestamp s).trans (by rw [encodeEvent_eq fits]; rfl)

/-! ### The XOR of a frame -/

/-- The streaming law of R102. -/
theorem xor8_append (front back : List Byte) : xor8 (front ++ back) = xor8 front ^^^ xor8 back := by
  rw [xor8, xor8From_append, xor8From_eq]
  rfl

/-- One byte exchanged for another. -/
theorem xor8_set {bytes : List Byte} {i : Nat} (inside : i < bytes.length) (b : Byte) :
    xor8 (bytes.set i b) = xor8 bytes ^^^ (bytes.getD i 0 ^^^ b) := by
  induction bytes generalizing i with
  | nil => cases inside
  | cons first rest ih =>
    cases i with
    | zero =>
      simp only [List.set_cons_zero, List.getD_cons_zero, xor8_cons]
      rw [BitVec.xor_comm first, BitVec.xor_assoc, ← BitVec.xor_assoc first, BitVec.xor_self, BitVec.zero_xor,
        BitVec.xor_comm]
    | succ i =>
      simp only [List.set_cons_succ, List.getD_cons_succ, xor8_cons, ih (Nat.lt_of_succ_lt_succ inside),
        BitVec.xor_assoc]

theorem commandChecksum_eq (kind : Byte) (payload : List Byte) :
    commandChecksum kind payload = kind ^^^ (xor8 (lenBytes (countOf payload)) ^^^ xor8 payload) := by
  rw [commandChecksum, xor8_cons, xor8_append]

theorem eventChecksum_eq (kind : Byte) (payload : List Byte) (timestamp : Word) :
    eventChecksum kind payload timestamp = commandChecksum kind payload ^^^ xor8 (timestampBytes timestamp) := by
  rw [eventChecksum, ← List.cons_append, xor8_append, commandChecksum]

/-! ### A flipped bit (R155) -/

theorem xor_ne_self {w : Nat} {x mask : BitVec w} (nonzero : mask ≠ 0) : x ^^^ mask ≠ x := by
  intro same
  have cancelled := congrArg (x ^^^ ·) same
  rw [← BitVec.xor_assoc, BitVec.xor_self, BitVec.zero_xor] at cancelled
  exact nonzero cancelled

theorem bitMask_ne_zero {j : Nat} (h : j < 8) : BitVec.ofNat 8 (2 ^ j) ≠ 0 := by
  interval_cases j <;> decide

theorem commandChecksum_ne_of_payload {kind : Byte} {payload : List Byte} {i j : Nat} (hi : i < payload.length)
    (hj : j < 8) :
    commandChecksum kind payload ≠ commandChecksum kind (payload.set i (flipBit (payload.getD i 0) j)) := by
  have flipped : commandChecksum kind (payload.set i (flipBit (payload.getD i 0) j))
      = commandChecksum kind payload ^^^ BitVec.ofNat 8 (2 ^ j) := by
    simp only [commandChecksum_eq, xor8_set hi, flipBit, countOf, List.length_set, BitVec.xor_assoc]
    rw [← BitVec.xor_assoc (payload.getD i 0), BitVec.xor_self, BitVec.zero_xor]
  rw [flipped]
  exact (xor_ne_self (bitMask_ne_zero hj)).symm

theorem commandChecksum_ne_of_kind {kind kind' : Byte} (h : kind ≠ kind') (payload : List Byte) :
    commandChecksum kind payload ≠ commandChecksum kind' payload := by
  rw [commandChecksum_eq, commandChecksum_eq]
  exact fun same => h (BitVec.xor_left_inj _ |>.mp same)

/-- The four bytes of a flipped bit: one of them is that bit, the others are 0. -/
theorem xor8_timestampBytes_bit_ne_zero {j : Nat} (h : j < 32) :
    xor8 (timestampBytes (BitVec.ofNat 32 (2 ^ j))) ≠ 0 := by
  interval_cases j <;> decide

theorem xor8_timestampBytes_xor (ts mask : Word) :
    xor8 (timestampBytes (ts ^^^ mask)) = xor8 (timestampBytes ts) ^^^ xor8 (timestampBytes mask) := by
  simp only [timestampBytes, wordByte, BitVec.extractLsb'_xor, xor8_cons, xor8_nil]
  ac_rfl

theorem eventChecksum_ne_of_timestamp {kind : Byte} {payload : List Byte} {timestamp : Word} {j : Nat} (hj : j < 32) :
    eventChecksum kind payload timestamp
      ≠ eventChecksum kind payload (timestamp ^^^ BitVec.ofNat 32 (2 ^ j)) := by
  rw [eventChecksum_eq, eventChecksum_eq, xor8_timestampBytes_xor, ← BitVec.xor_assoc]
  exact (xor_ne_self (xor8_timestampBytes_bit_ne_zero hj)).symm

/-- Settles O47: a bit flipped in one byte flips that bit of the XOR, so the checksum byte no longer is it. -/
theorem flippedBitOfCommandIsRejected : Obligations.FlippedBitOfCommandIsRejected := by
  intro s link k now payload j hk dir consistent hst fits hj c hc
  have rejected {payload : List Byte} (fits : payload.length ≤ Config.maxPayload) {checksum : Byte}
      (wrong : checksum ≠ commandChecksum c.2 payload) : ∃ regs : Parser, regs.st = .idle ∧
        exec (c.1 link now (.whole payload checksum)) s = .next (s.afterLink link k regs [.checksumMismatch]) :=
    ⟨k.regs.takeFrame s.params.clockW payload now, hst, by
      rw [exec_commandFrame (c := c) hc hk dir consistent hst fits, if_neg wrong]⟩
  refine ⟨fun i hi => ?inPayload, ?inChecksum, fun kind valid flipped => ?inKind⟩
  case inPayload => exact rejected (by rwa [List.length_set]) (commandChecksum_ne_of_payload hi hj)
  case inChecksum => exact rejected fits (xor_ne_self (bitMask_ne_zero hj))
  case inKind =>
    refine rejected fits (commandChecksum_ne_of_kind ?_ payload)
    rw [← flipped]
    exact (xor_ne_self (bitMask_ne_zero hj)).symm

/-- Settles O48. -/
theorem flippedBitOfTimestampIsRejected : Obligations.FlippedBitOfTimestampIsRejected := by
  intro s link k now payload timestamp j hk dir consistent hst fits hj e he
  refine ⟨k.regs.takeFrame s.params.clockW payload now, hst, ?_⟩
  rw [exec_eventFrame (e := e) he hk dir consistent hst fits, if_neg (eventChecksum_ne_of_timestamp hj)]

/-! ### A frame at a parser of the other direction (R177) -/

/-- Settles O52: to a command parser the first timestamp byte is the checksum byte, and the rest comes after the end. -/
theorem eventFrameAtCommandParserIsMisparsed : Obligations.EventFrameAtCommandParserIsMisparsed := by
  intro s link k now payload timestamp checksum hk dir consistent hst fits e he
  have listed : e ∈ eventKinds.take 4 := he
  have valid : e.2 ∈ validKinds .cmd :=
    (by decide : (eventKinds.take 4).map Prod.snd ⊆ validKinds .cmd) (List.mem_map_of_mem listed)
  have wire : e.2 :: evtBodyBytes (.whole payload timestamp checksum)
      = e.2 :: cmdBodyBytes (.whole payload (wordByte 0 timestamp))
        ++ [wordByte 1 timestamp, wordByte 2 timestamp, wordByte 3 timestamp, checksum] := by
    simp [evtBodyBytes, cmdBodyBytes, timestampBytes]
  have length : (e.2 :: cmdBodyBytes (.whole payload (wordByte 0 timestamp))).length = payload.length + 4 := by
    simp [cmdBodyBytes, lenBytes]
  have inside := (List.getElem?_eq_some_iff.mp hk).1
  obtain ⟨out, run⟩ := receiveRun_eq_feed
    (s := s.afterLink link k (k.regs.takeFrame s.params.clockW payload now) []) (List.getElem?_set_self inside)
    [wordByte 1 timestamp, wordByte 2 timestamp, wordByte 3 timestamp, checksum] (now + (payload.length + 4))
  refine ⟨(feed s.params.clockW k.dir [wordByte 1 timestamp, wordByte 2 timestamp, wordByte 3 timestamp, checksum]
    (now + (payload.length + 4)) (k.regs.takeFrame s.params.clockW payload now)).1, _, _, ?_, run, ?_⟩
  · rw [exec_eventKind (List.mem_of_mem_take listed) hk, wire, feed_append, length, dir,
      feed_commandFrame consistent hst valid fits]
    rfl
  · simp only [afterLink_links, afterLink_params, List.set_set]

/-- Settles O58: to an event parser the checksum byte is the first byte of the timestamp. -/
theorem commandFrameAtEventParserWaits : Obligations.CommandFrameAtEventParserWaits := by
  intro s link k now payload checksum hk dir consistent hst fits c hc
  obtain ⟨listed, valid⟩ : c ∈ commandKinds ∧ c.2 ∈ validKinds .evt := by
    fin_cases hc <;> simp [commandKinds, validKinds]
  obtain ⟨-, tcnt, -, -, -, ts⟩ := consistent.idleEmpty hst
  have stamp : setTsByte 0 (0 : BitVec 3).toNat checksum = BitVec.ofNat 32 checksum.toNat := by
    apply BitVec.eq_of_toNat_eq
    have := checksum.isLt
    simp [setTsByte, joinWord_toNat, wordByte_toNat]
    omega
  rw [exec_commandKind listed hk, cmdBodyBytes, ← List.cons_append, feed_append, dir,
    feed_front consistent hst valid fits, feed_singleton, receiveByte_tstamp rfl]
  simp only [rxTstamp, Parser.takeFront, tcnt, ts, stamp]
  rfl

/-! ### The decoder: the bodies of frames and the counted operand -/

theorem timestampBytes_append (ts : Word) (rest : List Byte) :
    timestampBytes ts ++ rest = wordByte 0 ts :: wordByte 1 ts :: wordByte 2 ts :: wordByte 3 ts :: rest := rfl

theorem lenBytes_append (n : Half) (rest : List Byte) : lenBytes n ++ rest = lowByte n :: highByte n :: rest := rfl

theorem countOf_toNat_of_payloadCounts {payload : List Byte} (h : payloadCounts payload = true) :
    (countOf payload).toNat = payload.length := by
  have counts : payload.length ≤ 65535 := of_decide_eq_true h
  rw [countOf, BitVec.toNat_ofNat]
  omega

theorem countOf_eq {payload : List Byte} {n : Half} (h : payload.length = n.toNat) : countOf payload = n := by
  rw [countOf, h, BitVec.ofNat_toNat, BitVec.setWidth_eq]

/-- The body of a command frame is found by position (R73, R74). -/
theorem decodeCmdBody_bytes {body : CmdBody} (wf : body.wellFormed = true) (rest : List Byte) :
    decodeCmdBody (cmdBodyBytes body ++ rest) = .ok (body, rest) := by
  cases body with
  | whole payload checksum =>
    have fits : payload.length ≤ Config.maxPayload := of_decide_eq_true wf
    simp only [cmdBodyBytes, List.append_assoc, lenBytes_append, List.cons_append, decodeCmdBody, joinHalf_bytes,
      countOf_toNat fits, if_neg fits.not_gt, List.drop_left, List.take_left, List.nil_append]
  | overlong len =>
    have tooLong : Config.maxPayload < len.toNat := of_decide_eq_true wf
    simp only [cmdBodyBytes, lenBytes_append, decodeCmdBody, joinHalf_bytes, if_pos tooLong]

/-- Everything that `decodeCmdBody` can read. -/
theorem decodeCmdBody_ok {bytes rest : List Byte} {body : CmdBody} (h : decodeCmdBody bytes = .ok (body, rest)) :
    body.wellFormed = true ∧ cmdBodyBytes body ++ rest = bytes := by
  unfold decodeCmdBody at h
  split at h
  case h_2 => cases h
  case h_1 low high tail =>
    split at h
    case isTrue tooLong =>
      cases h
      exact ⟨decide_eq_true tooLong, by simp [cmdBodyBytes, lenBytes]⟩
    case isFalse fits =>
      split at h
      case h_2 => cases h
      case h_1 checksum after drop =>
        cases h
        have length : (tail.take (joinHalf low high).toNat).length = (joinHalf low high).toNat := by
          have nonempty := congrArg List.length drop
          rw [List.length_drop, List.length_cons] at nonempty
          rw [List.length_take]
          omega
        refine ⟨decide_eq_true (length.trans_le (not_lt.mp fits)), ?_⟩
        rw [cmdBodyBytes, countOf_eq length, List.append_assoc, List.append_assoc, lenBytes_append, lowByte_joinHalf,
          highByte_joinHalf, List.singleton_append, ← drop, List.take_append_drop]

/-- As `decodeCmdBody_bytes`, for event frames. -/
theorem decodeEvtBody_bytes {body : EvtBody} (wf : body.wellFormed = true) (rest : List Byte) :
    decodeEvtBody (evtBodyBytes body ++ rest) = .ok (body, rest) := by
  cases body with
  | whole payload timestamp checksum =>
    have fits : payload.length ≤ Config.maxPayload := of_decide_eq_true wf
    simp only [evtBodyBytes, List.append_assoc, lenBytes_append, List.cons_append, decodeEvtBody, joinHalf_bytes,
      countOf_toNat fits, if_neg fits.not_gt, List.drop_left, List.take_left, List.nil_append, timestampBytes_append,
      joinWord_bytes]
  | overlong len =>
    have tooLong : Config.maxPayload < len.toNat := of_decide_eq_true wf
    simp only [evtBodyBytes, lenBytes_append, decodeEvtBody, joinHalf_bytes, if_pos tooLong]

/-- Everything that `decodeEvtBody` can read. -/
theorem decodeEvtBody_ok {bytes rest : List Byte} {body : EvtBody} (h : decodeEvtBody bytes = .ok (body, rest)) :
    body.wellFormed = true ∧ evtBodyBytes body ++ rest = bytes := by
  unfold decodeEvtBody at h
  split at h
  case h_2 => cases h
  case h_1 low high tail =>
    split at h
    case isTrue tooLong =>
      cases h
      exact ⟨decide_eq_true tooLong, by simp [evtBodyBytes, lenBytes]⟩
    case isFalse fits =>
      split at h
      case h_2 => cases h
      case h_1 t0 t1 t2 t3 checksum after drop =>
        cases h
        have length : (tail.take (joinHalf low high).toNat).length = (joinHalf low high).toNat := by
          have nonempty := congrArg List.length drop
          rw [List.length_drop, List.length_cons] at nonempty
          rw [List.length_take]
          omega
        refine ⟨decide_eq_true (length.trans_le (not_lt.mp fits)), ?_⟩
        rw [evtBodyBytes, countOf_eq length, List.append_assoc, List.append_assoc, List.append_assoc, lenBytes_append,
          lowByte_joinHalf, highByte_joinHalf, timestampBytes_append, wordByte_zero_joinWord, wordByte_one_joinWord,
          wordByte_two_joinWord, wordByte_three_joinWord, List.singleton_append, ← drop, List.take_append_drop]

theorem decodeCounted_bytes {payload : List Byte} (wf : payloadCounts payload = true) :
    decodeCounted (lenBytes (countOf payload) ++ payload) = .ok (payload, []) := by
  simp only [lenBytes_append, decodeCounted, joinHalf_bytes, countOf_toNat_of_payloadCounts wf, lt_irrefl, if_false,
    List.take_length, List.drop_length]

/-- Everything that `decodeCounted` can read. -/
theorem decodeCounted_ok {bytes payload rest : List Byte} (h : decodeCounted bytes = .ok (payload, rest)) :
    payloadCounts payload = true ∧ lenBytes (countOf payload) ++ payload ++ rest = bytes := by
  unfold decodeCounted at h
  split at h
  case h_2 => cases h
  case h_1 low high tail =>
    split at h
    case isTrue => cases h
    case isFalse enough =>
      cases h
      have length : (tail.take (joinHalf low high).toNat).length = (joinHalf low high).toNat := by
        rw [List.length_take]
        omega
      have bound := (joinHalf low high).isLt
      refine ⟨decide_eq_true (by omega), ?_⟩
      rw [countOf_eq length, List.append_assoc, lenBytes_append, lowByte_joinHalf, highByte_joinHalf,
        List.take_append_drop]

/-! ### The decoder: the kinds -/

section decodeKinds
variable {c : (Nat → Nat → CmdBody → Instr) × Byte} {e : (Nat → Nat → EvtBody → Instr) × Byte} {kind : Byte}

theorem cmdOfKind_of_mem (h : c ∈ commandKinds) : cmdOfKind c.2 = some c.1 := by
  fin_cases h <;> rfl

theorem evtOfKind_of_mem (h : e ∈ eventKinds) : evtOfKind e.2 = some e.1 := by
  fin_cases h <;> rfl

/-- A byte outside the kinds of its direction begins no frame (R82). -/
theorem cmdOfKind_of_not_mem (h : kind ∉ validKinds .cmd) : cmdOfKind kind = none := by
  simp only [validKinds, List.mem_cons, List.not_mem_nil, or_false, not_or] at h
  simp only [cmdOfKind, h, if_false]

theorem evtOfKind_of_not_mem (h : kind ∉ validKinds .evt) : evtOfKind kind = none := by
  simp only [validKinds, List.mem_cons, List.not_mem_nil, or_false, not_or] at h
  simp only [evtOfKind, h, if_false]

/-- The command kinds that the decoder knows are those of the table. -/
theorem mem_of_cmdOfKind {ctor : Nat → Nat → CmdBody → Instr} (h : cmdOfKind kind = some ctor) :
    (ctor, kind) ∈ commandKinds := by
  by_cases valid : kind ∈ validKinds .cmd
  · obtain ⟨c, listed, rfl⟩ := List.mem_map.mp (commandKinds_bytes ▸ valid)
    rw [cmdOfKind_of_mem listed, Option.some_inj] at h
    exact h ▸ listed
  · rw [cmdOfKind_of_not_mem valid] at h
    cases h

theorem mem_of_evtOfKind {ctor : Nat → Nat → EvtBody → Instr} (h : evtOfKind kind = some ctor) :
    (ctor, kind) ∈ eventKinds := by
  by_cases valid : kind ∈ validKinds .evt
  · obtain ⟨e, listed, rfl⟩ := List.mem_map.mp (eventKinds_bytes ▸ valid)
    rw [evtOfKind_of_mem listed, Option.some_inj] at h
    exact h ▸ listed
  · rw [evtOfKind_of_not_mem valid] at h
    cases h

/-- Every instruction of the command stream is the reserved code or a kind of the table. -/
theorem command_cases {i : Instr} (h : formatOf i = .cmd) :
    (∃ link now, i = .cmdReservedFf link now)
    ∨ ∃ ctor, (ctor, firstByte i) ∈ commandKinds ∧ ∃ link now body, i = ctor link now body := by
  cases i with
  | reset | rxByte | tick | xor8 | verify | encCmd | encEvt | sc2vk | vk2nk | sc2nk => cases h
  | evtMouseMove | evtMouseClick | evtKeyboardInput | evtStatusResponse | evtError => cases h
  | cmdReservedFf link now => exact .inl ⟨link, now, rfl⟩
  | _ link now body => exact .inr ⟨_, mem_of_cmdOfKind rfl, link, now, body, rfl⟩

/-- Every instruction of the event stream is a kind of the table. -/
theorem event_cases {i : Instr} (h : formatOf i = .evt) :
    ∃ ctor, (ctor, firstByte i) ∈ eventKinds ∧ ∃ link now body, i = ctor link now body := by
  cases i with
  | evtMouseMove link now body | evtMouseClick link now body | evtKeyboardInput link now body
  | evtStatusResponse link now body | evtError link now body =>
    exact ⟨_, mem_of_evtOfKind rfl, link, now, body, rfl⟩
  | _ => cases h

end decodeKinds

/-! ### The decoder: the three streams -/

section decode
variable {link now : Nat} {bytes rest : List Byte} {i : Instr}

theorem decodeCmd_of_mem {c : (Nat → Nat → CmdBody → Instr) × Byte} (h : c ∈ commandKinds) {body : CmdBody}
    (hbody : decodeCmdBody bytes = .ok (body, rest)) :
    decodeCmd link now (c.2 :: bytes) = .ok (c.1 link now body, rest) := by
  have ordinary : c.2 ≠ 0xFF := by
    intro reserved
    exact absurd (reserved ▸ commandKind_valid h) (by decide)
  simp only [decodeCmd, if_neg ordinary, cmdOfKind_of_mem h, hbody]

theorem decodeEvt_of_mem {e : (Nat → Nat → EvtBody → Instr) × Byte} (h : e ∈ eventKinds) {body : EvtBody}
    (hbody : decodeEvtBody bytes = .ok (body, rest)) :
    decodeEvt link now (e.2 :: bytes) = .ok (e.1 link now body, rest) := by
  simp only [decodeEvt, evtOfKind_of_mem h, hbody]

/-- Everything that can be read at the command stream. -/
theorem decodeCmd_ok (h : decodeCmd link now bytes = .ok (i, rest)) :
    (i = .cmdReservedFf link now ∧ bytes = 0xFF :: rest)
    ∨ ∃ c ∈ commandKinds, ∃ body tail, i = c.1 link now body ∧ bytes = c.2 :: tail
      ∧ decodeCmdBody tail = .ok (body, rest) := by
  cases bytes with
  | nil => cases h
  | cons kind tail =>
    rw [decodeCmd] at h
    split at h
    case isTrue reserved =>
      cases h
      exact .inl ⟨rfl, by rw [reserved]⟩
    case isFalse =>
      split at h
      case h_1 => cases h
      case h_2 ctor known =>
        split at h
        case h_2 => cases h
        case h_1 body after read =>
          cases h
          exact .inr ⟨_, mem_of_cmdOfKind known, body, tail, rfl, rfl, read⟩

/-- Everything that can be read at the event stream. -/
theorem decodeEvt_ok (h : decodeEvt link now bytes = .ok (i, rest)) :
    ∃ e ∈ eventKinds, ∃ body tail, i = e.1 link now body ∧ bytes = e.2 :: tail
      ∧ decodeEvtBody tail = .ok (body, rest) := by
  cases bytes with
  | nil => cases h
  | cons kind tail =>
    rw [decodeEvt] at h
    split at h
    case h_1 => cases h
    case h_2 ctor known =>
      split at h
      case h_2 => cases h
      case h_1 body after read =>
        cases h
        exact ⟨_, mem_of_evtOfKind known, body, tail, rfl, rfl, read⟩

end decode

/-- What reading an instruction from a request's bytes must give: no bit is dropped, none is made up. -/
def ReadFrom (r : Request) (i : Instr) (rest : List Byte) : Prop :=
  WellFormed i = true ∧ formatOf i = r.format ∧ (encode i).bytes ++ rest = r.bytes
    ∧ (∀ link, linkOf i = some link → link = r.link) ∧ (∀ now, nowOf i = some now → now = r.now)

theorem readFrom_of_decodeCmd {link now : Nat} {bytes rest : List Byte} {i : Instr}
    (h : decodeCmd link now bytes = .ok (i, rest)) : ReadFrom ⟨.cmd, link, now, bytes⟩ i rest := by
  rcases decodeCmd_ok h with ⟨rfl, rfl⟩ | ⟨c, listed, body, tail, rfl, rfl, read⟩
  · exact ⟨rfl, rfl, rfl, by simp [linkOf], by simp [nowOf]⟩
  · obtain ⟨wf, bytes⟩ := decodeCmdBody_ok read
    obtain ⟨encoded, address, clock, fits⟩ := encode_commandKind listed link now body
    refine ⟨fits.trans wf, congrArg Request.format encoded, ?_, by simp [address], by simp [clock]⟩
    rw [encoded, List.cons_append, bytes]

theorem readFrom_of_decodeEvt {link now : Nat} {bytes rest : List Byte} {i : Instr}
    (h : decodeEvt link now bytes = .ok (i, rest)) : ReadFrom ⟨.evt, link, now, bytes⟩ i rest := by
  obtain ⟨e, listed, body, tail, rfl, rfl, read⟩ := decodeEvt_ok h
  obtain ⟨wf, bytes⟩ := decodeEvtBody_ok read
  obtain ⟨encoded, address, clock, fits⟩ := encode_eventKind listed link now body
  refine ⟨fits.trans wf, congrArg Request.format encoded, ?_, by simp [address], by simp [clock]⟩
  rw [encoded, List.cons_append, bytes]

theorem decodeOneByte_ok {ctor : Byte → Instr} {bytes rest : List Byte} {i : Instr}
    (h : decodeOneByte ctor bytes = .ok (i, rest)) : ∃ b, i = ctor b ∧ bytes = b :: rest := by
  cases bytes with
  | nil => cases h
  | cons b tail => cases h; exact ⟨b, rfl, rfl⟩

theorem decodeEncCmd_ok {bytes rest : List Byte} {i : Instr} (h : decodeEncCmd bytes = .ok (i, rest)) :
    ∃ kind payload, i = .encCmd kind payload ∧ payloadCounts payload = true
      ∧ kind :: (lenBytes (countOf payload) ++ payload ++ rest) = bytes := by
  unfold decodeEncCmd at h
  split at h
  case h_2 => cases h
  case h_1 kind tail =>
    split at h
    case h_2 => cases h
    case h_1 payload after read =>
      cases h
      obtain ⟨wf, rfl⟩ := decodeCounted_ok read
      exact ⟨kind, payload, rfl, wf, rfl⟩

theorem decodeEncEvt_ok {bytes rest : List Byte} {i : Instr} (h : decodeEncEvt bytes = .ok (i, rest)) :
    ∃ kind payload timestamp, i = .encEvt kind payload timestamp ∧ payloadCounts payload = true
      ∧ kind :: (timestampBytes timestamp ++ (lenBytes (countOf payload) ++ payload ++ rest)) = bytes := by
  unfold decodeEncEvt at h
  split at h
  case h_2 => cases h
  case h_1 kind t0 t1 t2 t3 tail =>
    split at h
    case h_2 => cases h
    case h_1 payload after read =>
      cases h
      obtain ⟨wf, rfl⟩ := decodeCounted_ok read
      exact ⟨kind, payload, _, rfl, wf, by simp [timestampBytes_append]⟩

/-- An operation index lies below 10 (R86). -/
theorem decodeOp_of_lt (link now : Nat) {op : Byte} (h : 9 < op.toNat) (rest : List Byte) :
    decodeOp link now (op :: rest) = .error .illegalOperation := by
  simp (disch := bv_omega) only [decodeOp, if_neg]

theorem operationIndex_cases {op : Byte} (h : op.toNat ≤ 9) :
    op = 0x00 ∨ op = 0x01 ∨ op = 0x02 ∨ op = 0x03 ∨ op = 0x04 ∨ op = 0x05 ∨ op = 0x06 ∨ op = 0x07 ∨ op = 0x08
      ∨ op = 0x09 := by
  bv_omega

theorem readFrom_of_decodeOp {link now : Nat} {bytes rest : List Byte} {i : Instr}
    (h : decodeOp link now bytes = .ok (i, rest)) : ReadFrom ⟨.op, link, now, bytes⟩ i rest := by
  cases bytes with
  | nil => cases h
  | cons op tail =>
    rcases Nat.lt_or_ge 9 op.toNat with illegal | index
    · rw [decodeOp_of_lt link now illegal] at h
      cases h
    · rcases operationIndex_cases index with rfl | rfl | rfl | rfl | rfl | rfl | rfl | rfl | rfl | rfl
      · -- RESET
        cases h
        exact ⟨rfl, rfl, rfl, by simp [linkOf], by simp [nowOf]⟩
      · -- RX_BYTE
        obtain ⟨b, rfl, rfl⟩ := decodeOneByte_ok h
        exact ⟨rfl, rfl, rfl, by simp [linkOf], by simp [nowOf]⟩
      · -- TICK
        cases h
        exact ⟨rfl, rfl, rfl, by simp [linkOf], by simp [nowOf]⟩
      · -- XOR8
        cases h
        exact ⟨rfl, rfl, List.append_nil _, nofun, nofun⟩
      · -- VERIFY
        cases h
        exact ⟨rfl, rfl, List.append_nil _, nofun, nofun⟩
      · -- ENC_CMD
        obtain ⟨kind, payload, rfl, wf, rfl⟩ := decodeEncCmd_ok h
        exact ⟨wf, rfl, rfl, nofun, nofun⟩
      · -- ENC_EVT
        obtain ⟨kind, payload, timestamp, rfl, wf, rfl⟩ := decodeEncEvt_ok h
        exact ⟨wf, rfl, by simp [encode, firstByte, operandBytes], nofun, nofun⟩
      · -- SC2VK
        obtain ⟨b, rfl, rfl⟩ := decodeOneByte_ok h
        exact ⟨rfl, rfl, rfl, nofun, nofun⟩
      · -- VK2NK
        obtain ⟨b, rfl, rfl⟩ := decodeOneByte_ok h
        exact ⟨rfl, rfl, rfl, nofun, nofun⟩
      · -- SC2NK
        obtain ⟨b, rfl, rfl⟩ := decodeOneByte_ok h
        exact ⟨rfl, rfl, rfl, nofun, nofun⟩

/-! ### The obligations on the encoding -/

/-- Settles O9: the kind is one of the table's, and the end of its body is found by position. -/
theorem frameEndIsFoundByPosition : Obligations.FrameEndIsFoundByPosition := by
  intro i rest wf frame
  cases format : formatOf i with
  | op => exact absurd format frame
  | cmd =>
    rcases command_cases format with ⟨link, now, rfl⟩ | ⟨ctor, listed, link, now, body, rfl⟩
    · rfl
    · obtain ⟨encoded, -, -, fits⟩ := encode_commandKind listed link now body
      rw [encoded]
      exact decodeCmd_of_mem listed (decodeCmdBody_bytes (fits ▸ wf) rest)
  | evt =>
    obtain ⟨ctor, listed, link, now, body, rfl⟩ := event_cases format
    obtain ⟨encoded, -, -, fits⟩ := encode_eventKind listed link now body
    rw [encoded]
    exact decodeEvt_of_mem listed (decodeEvtBody_bytes (fits ▸ wf) rest)

/-- An operation is read back from its bytes. -/
theorem decode_encode_op {i : Instr} (wf : WellFormed i = true) (h : formatOf i = .op) :
    decode (encode i) = .ok (i, []) := by
  cases i with
  | reset | rxByte | tick | xor8 | verify | sc2vk | vk2nk | sc2nk => rfl
  | encCmd kind payload =>
    have read : decodeEncCmd (kind :: (lenBytes (countOf payload) ++ payload)) = .ok (.encCmd kind payload, []) := by
      simp only [decodeEncCmd, decodeCounted_bytes wf]
    exact read
  | encEvt kind payload timestamp =>
    have read : decodeEncEvt (kind :: (timestampBytes timestamp ++ lenBytes (countOf payload) ++ payload))
        = .ok (.encEvt kind payload timestamp, []) := by
      simp only [List.cons_append, timestampBytes_append, decodeEncEvt, decodeCounted_bytes wf, joinWord_bytes]
    exact read
  | _ => cases h

/-- Settles O7: for frames, nothing follows. -/
theorem decodeOfEncode : Obligations.DecodeOfEncode := by
  intro i wf
  by_cases frame : formatOf i = .op
  · exact decode_encode_op wf frame
  · have read := frameEndIsFoundByPosition i [] wf frame
    rwa [List.append_nil] at read

/-- Settles O8, stream by stream. -/
theorem decodedBytesAreItsEncoding : Obligations.DecodedBytesAreItsEncoding := by
  intro r i rest h
  obtain ⟨format, link, now, bytes⟩ := r
  cases format with
  | op => exact readFrom_of_decodeOp h
  | cmd => exact readFrom_of_decodeCmd h
  | evt => exact readFrom_of_decodeEvt h

/-- Settles O10: the decoder knows the kinds of the table alone. -/
theorem illegalKindsBeginNoFrame : Obligations.IllegalKindsBeginNoFrame := by
  intro link now b rest
  refine ⟨fun illegal ordinary => ?_, rfl, fun illegal => ?_⟩
  · simp only [decode, decodeCmd, if_neg ordinary, cmdOfKind_of_not_mem illegal]
  · simp only [decode, decodeEvt, evtOfKind_of_not_mem illegal]

/-- Settles O11: each word is one run of the decoder. -/
theorem specWordsDecode : Obligations.SpecWordsDecode :=
  ⟨rfl, rfl, rfl, rfl, rfl, rfl, rfl, rfl⟩

/-! ### What a step takes from the queue -/

/-- Settles O12. -/
theorem stepRunsDecodedInstruction : Obligations.StepRunsDecodedInstruction := by
  intro s r others i rest hp hd
  rw [step, fetch_of_decode hp hd]

/-- Settles O13: at either stream the first byte is taken. -/
theorem stepReceivesUnframedByte : Obligations.StepReceivesUnframedByte := by
  intro s r others b rest e hp hf hb hd
  have taken : fetch s = .run (.rxByte r.link b r.now) { s with pending := leaveRest r rest others } := by
    cases format : r.format with
    | op => exact absurd format hf
    | cmd | evt => simp [fetch, hp, hd, hb, format]
  rw [step, taken]

/-- Settles O14. -/
theorem stepWithoutEventWaits : Obligations.StepWithoutEventWaits := by
  intro s
  refine ⟨fun hp => ?_, fun r others hp hb => ?_⟩
  · rw [step, fetch_of_nil hp]
  · rw [step, fetch_of_no_bytes hp hb]

/-- A counted operand of fewer bytes than its count is truncated. -/
theorem decodeCounted_truncated {low high : Byte} {payload : List Byte}
    (h : payload.length < low.toNat + 256 * high.toNat) :
    decodeCounted (low :: high :: payload) = .error .truncated :=
  if_pos (joinHalf_toNat low high ▸ h)

theorem decodeCounted_of_length_lt_two {bytes : List Byte} (h : bytes.length < 2) :
    decodeCounted bytes = .error .truncated := by
  match bytes with
  | [] | [_] => rfl
  | _ :: _ :: _ => simp at h

/-- Settles O15: each operation with operands, cut off before they end. -/
theorem stepRefusesNonOperation : Obligations.StepRefusesNonOperation := by
  rintro s ⟨format, link, now, bytes⟩ others b rest hp rfl rfl
  refine ⟨fun e hd => ?refused, fun illegal => decodeOp_of_lt link now illegal rest, ?oneByte, ?encCmdHeader,
    ?encCmdPayload, ?encEvtHeader, ?encEvtPayload⟩
  case refused => rw [step, fetch_of_no_operation hp rfl rfl hd]
  case oneByte =>
    rintro mem rfl
    simp only [List.mem_cons, List.not_mem_nil, or_false] at mem
    rcases mem with rfl | rfl | rfl | rfl
    all_goals rfl
  case encCmdHeader =>
    rintro rfl short
    show decodeEncCmd rest = _
    match rest with
    | [] => rfl
    | kind :: operand => simp only [decodeEncCmd, decodeCounted_of_length_lt_two (Nat.lt_of_succ_lt_succ short)]
  case encCmdPayload =>
    rintro kind low high payload rfl rfl short
    show decodeEncCmd (kind :: low :: high :: payload) = _
    simp only [decodeEncCmd, decodeCounted_truncated short]
  case encEvtHeader =>
    rintro rfl short
    show decodeEncEvt rest = _
    match rest with
    | [] | [_] | [_, _] | [_, _, _] | [_, _, _, _] => rfl
    | kind :: t0 :: t1 :: t2 :: t3 :: operand =>
      have cut : operand.length < 2 := by simp only [List.length_cons] at short; omega
      simp only [decodeEncEvt, decodeCounted_of_length_lt_two cut]
  case encEvtPayload =>
    rintro kind t0 t1 t2 t3 low high payload rfl rfl short
    show decodeEncEvt (kind :: t0 :: t1 :: t2 :: t3 :: low :: high :: payload) = _
    simp only [decodeEncEvt, decodeCounted_truncated short]

/-! ### RX_BYTE and TICK -/

/-- Settles O23: of the six rules, PAYLOAD alone writes, and it writes one byte at CNT. -/
theorem rxByteStoresAtCntOnly : Obligations.RxByteStoresAtCntOnly := by
  intro s t link k k' b now hk h hk'
  rw [exec_rxByte hk, Host.Outcome.next.injEq] at h
  have inside := (List.getElem?_eq_some_iff.mp hk).1
  rw [← h, afterLink_links, List.getElem?_set_self inside, Option.some_inj] at hk'
  subst hk'
  rw [receiveByte_buf]
  refine ⟨fun addr other => ?_, fun hst bound canonical => ?_⟩
  · split
    next hst => exact Memory.read_write_of_ne _ _ _ _ fun same => other ⟨hst, same⟩
    next => rfl
  · rw [if_pos hst, Memory.read_write_self canonical bound]

/-- The byte received becomes byte `n` of the timestamp, and the others stay. -/
theorem wordByte_setTsByte (ts : Word) {n j : Nat} (hn : n ≤ 3) (hj : j < 4) (b : Byte) :
    wordByte j (setTsByte ts n b) = if j = n then b else wordByte j ts := by
  interval_cases n <;> interval_cases j <;> simp [setTsByte]

/-- Settles O24. -/
theorem rxByteInTstampStoresByte : Obligations.RxByteInTstampStoresByte := by
  intro s link k b now hk hst atMost
  refine ⟨setTsByte k.regs.ts k.regs.tcnt.toNat b, fun j hj => wordByte_setTsByte _ atMost hj b, ?_⟩
  have counted : k.regs.tcnt + 1 = BitVec.ofNat 3 (k.regs.tcnt.toNat + 1) := by
    rw [BitVec.ofNat_add, BitVec.ofNat_toNat, BitVec.setWidth_eq]
    rfl
  have fourth : k.regs.tcnt.toNat + 1 = 4 ↔ k.regs.tcnt.toNat = 3 := by omega
  rw [exec_rxByte hk, receiveByte_tstamp hst, rxTstamp, counted]
  simp only [fourth]
  rfl

/-- Settles O27: an age modulo 2^CLOCK_W is at most the largest timeout. -/
theorem largestTimeoutNeverFires : Obligations.LargestTimeoutNeverFires := by
  intro s link k now hk largest
  rw [exec_tick hk]
  rcases tickParser_cases s.params.clockW k.frameTimeout now k.regs with ⟨-, -, fires⟩ | quiet
  · have above : k.frameTimeout < elapsed s.params.clockW k.regs.t0 now := of_decide_eq_true fires
    have below : elapsed s.params.clockW k.regs.t0 now < 2 ^ s.params.clockW := Nat.mod_lt _ (Nat.two_pow_pos _)
    omega
  · rw [quiet]
    rfl

/-! ### The Checksum Unit and the Frame Encoder -/

/-- The parity of one bit, byte by byte. -/
theorem xor8_getLsbD (bytes : List Byte) (j : Nat) :
    (xor8 bytes).getLsbD j = decide (bytes.countP (fun b => b.getLsbD j) % 2 = 1) := by
  induction bytes with
  | nil => simp
  | cons b rest ih =>
    rw [xor8_cons, BitVec.getLsbD_xor, ih, List.countP_cons]
    cases b.getLsbD j
    · simp
    · rcases Nat.mod_two_eq_zero_or_one (rest.countP fun b => b.getLsbD j) with even | odd
      · simp [even, Nat.add_mod]
      · simp [odd, Nat.add_mod]

/-- Settles O31. -/
theorem xor8BitIsParity : Obligations.Xor8BitIsParity := by
  intro bytes s
  exact ⟨xor8 bytes, exec_xor8 bytes s, fun j _ => xor8_getLsbD bytes j⟩

/-- Settles O32. -/
theorem xor8StreamsOverConcatenation : Obligations.Xor8StreamsOverConcatenation := by
  intro front back s
  refine ⟨xor8 front, xor8 back, exec_xor8 front s, exec_xor8 back s, ?_⟩
  rw [exec_xor8, xor8_append]

/-- A sequence with its checksum XORs to 0 and passes VERIFY (R105). -/
theorem withChecksum_verifies (body : List Byte) (s : State) :
    xor8 (withChecksum body) = 0x00 ∧ exec (.verify (withChecksum body)) s = .next { s with out := .truth true } := by
  refine ⟨(xor8_concat_eq_zero_iff body _).mpr rfl, ?_⟩
  rw [exec_verify, withChecksum, verifyBytes_concat, decide_eq_true rfl]

/-- Settles O36: both frames are a body with its checksum. -/
theorem encodedFramesVerify : Obligations.EncodedFramesVerify := by
  intro kind payload timestamp s fits
  obtain ⟨commandZero, commandVerifies⟩ :=
    withChecksum_verifies ([kind, BitVec.ofNat 8 payload.length, 0x00] ++ payload) s
  obtain ⟨eventZero, eventVerifies⟩ :=
    withChecksum_verifies ([kind, BitVec.ofNat 8 payload.length, 0x00] ++ payload ++ timestampBytes timestamp) s
  refine ⟨_, _, ?command, ?event, ?commandLength, ?eventLength, rfl, rfl, commandZero, eventZero, commandVerifies,
    eventVerifies⟩
  case command => rw [exec_encCmd, encodeCommand_of_le kind fits, encoderOutput_some]
  case event => rw [exec_encEvt, encodeEvent_of_le kind timestamp fits, encoderOutput_some]
  case commandLength => simp [withChecksum]; omega
  case eventLength => simp [withChecksum, timestampBytes]; omega

/-! ### The Key Translator -/

/-- The first map as a function of the scan code's number. -/
def virtualCodeOf (k : KeyTab) (n : Nat) : Byte := romSc2Vk k (BitVec.ofNat 8 n)

theorem virtualCodeOf_toNat (k : KeyTab) (sc : Byte) : virtualCodeOf k sc.toNat = romSc2Vk k sc := by
  rw [virtualCodeOf, BitVec.ofNat_toNat, BitVec.setWidth_eq]

/-- The ten digit keys: scan codes 30 to 38 are the digits 1 to 9, and 39 is the digit 0 (R115). -/
theorem map_virtualCodeOf_digits_perm (k : KeyTab) :
    ((List.range 10).map fun d => virtualCodeOf k (d + 30)).Perm ((List.range 10).map (runCode k.vk0)) := by
  have scanned : ((List.range 10).map fun d => virtualCodeOf k (d + 30))
      = (List.range 9).map (fun d => runCode k.vk0 (d + 1)) ++ [runCode k.vk0 0] := by
    rw [List.range_succ, List.map_append, List.map_singleton]
    refine congrArg₂ (· ++ ·) ?_ ?_
    · refine List.map_congr_left fun d below => ?_
      have bound := List.mem_range.mp below
      rw [virtualCodeOf, romSc2Vk_of_digit k (n := d + 30) (Nat.mod_eq_of_lt (by omega)) (by omega) (by omega)]
      rfl
    · rw [virtualCodeOf, ← romSc2Vk_digitZero]
      rfl
  have digits : (List.range 10).map (runCode k.vk0)
      = runCode k.vk0 0 :: (List.range 9).map fun d => runCode k.vk0 (d + 1) := by
    rw [List.range_succ_eq_map, List.map_cons, List.map_map]
    rfl
  rw [scanned, digits]
  exact List.perm_append_singleton _ _

/-- The 57 scan codes give the 57 virtual-key constants, each once. -/
theorem map_virtualCodeOf_scanCodes_perm (k : KeyTab) : (scanCodes.map (virtualCodeOf k)).Perm (virtualCodes k) := by
  have letters : (List.range 26).map (fun i => virtualCodeOf k (i + 4)) = (List.range 26).map (runCode k.vkA) := by
    refine List.map_congr_left fun i below => ?_
    have bound := List.mem_range.mp below
    exact romSc2Vk_of_letter k (n := i + 4) (Nat.mod_eq_of_lt (by omega)) (by omega) (by omega)
  have functionKeys :
      (List.range 12).map (fun n => virtualCodeOf k (n + 58)) = (List.range 12).map (runCode k.vkF1) := by
    refine List.map_congr_left fun n below => ?_
    have bound := List.mem_range.mp below
    exact romSc2Vk_of_functionKey k (n := n + 58) (Nat.mod_eq_of_lt (by omega)) (by omega) (by omega)
  have controls : [40, 41, 42, 43, 44].map (virtualCodeOf k)
      = [k.vkEnter, k.vkEscape, k.vkBackspace, k.vkTab, k.vkSpace] := rfl
  have arrows : [82, 83, 84, 85].map (virtualCodeOf k) = k.vkArrow.toList := (toList_of_four _).symm
  simp only [scanCodes, virtualCodes, List.map_append, List.map_map, Function.comp_def, letters, functionKeys, controls,
    arrows]
  exact ((((map_virtualCodeOf_digits_perm k).append_left _).append_right _).append_right _).append_right _

/-- R120: the constants are not 0, and nothing else has an entry. -/
theorem romSc2Vk_ne_zero_iff {k : KeyTab} (wf : keytabWf k = true) (sc : Byte) :
    romSc2Vk k sc ≠ 0x00 ↔ sc.toNat ∈ scanCodes := by
  obtain ⟨-, nonzero, -, -⟩ := (keytabWf_iff k).mp wf
  exact ⟨fun h => by_contra fun unlisted => h (romSc2Vk_of_unsupported k unlisted),
    fun h => nonzero _ (romSc2Vk_mem_virtualCodes k h)⟩

/-- R120: no constant stands twice, so no two scan codes share one. -/
theorem romSc2Vk_injOn {k : KeyTab} (wf : keytabWf k = true) {sc sc' : Byte} (h : sc.toNat ∈ scanCodes)
    (h' : sc'.toNat ∈ scanCodes) (same : romSc2Vk k sc = romSc2Vk k sc') : sc = sc' := by
  obtain ⟨-, -, -, distinct⟩ := (keytabWf_iff k).mp wf
  rw [← virtualCodeOf_toNat, ← virtualCodeOf_toNat] at same
  exact BitVec.eq_of_toNat_eq
    (List.inj_on_of_nodup_map ((map_virtualCodeOf_scanCodes_perm k).nodup_iff.mpr distinct) h h' same)

/-- Settles O38. -/
theorem sc2vkDomain : Obligations.Sc2vkDomain := by
  intro s sc sc' wf
  refine ⟨_, _, exec_sc2vk sc s, exec_sc2vk sc' s, romSc2Vk_ne_zero_iff wf sc, fun nonzero same => ?_⟩
  exact romSc2Vk_injOn wf ((romSc2Vk_ne_zero_iff wf sc).mp nonzero)
    ((romSc2Vk_ne_zero_iff wf sc').mp (same ▸ nonzero)) same

/-- Settles O40. -/
theorem vk2nkDomain : Obligations.Vk2nkDomain := by
  intro s vk wf
  exact ⟨_, exec_vk2nk vk s, romVk2Nk_ne_zero_iff wf vk⟩

/-- The partner of a control key but space, of a function key or of an arrow key is a special code. -/
theorem exists_special_partner (k : KeyTab) {vk : Byte}
    (h : vk ∈ [k.vkEnter, k.vkEscape, k.vkBackspace, k.vkTab] ++ (List.range 12).map (runCode k.vkF1)
      ++ k.vkArrow.toList) : ∃ nk, (vk, nk) ∈ keyTable k ∧ nk ∈ specialNativeCodes k := by
  simp only [specialNativeCodes, List.mem_append]
  rcases List.mem_append.mp h with h | arrow
  · rcases List.mem_append.mp h with control | functionKey
    · simp only [List.mem_cons, List.not_mem_nil, or_false] at control
      rcases control with rfl | rfl | rfl | rfl
      · exact ⟨k.nkEnter, controlKey_mem_keyTable k (by simp), by simp⟩
      · exact ⟨k.nkEscape, controlKey_mem_keyTable k (by simp), by simp⟩
      · exact ⟨k.nkBackspace, controlKey_mem_keyTable k (by simp), by simp⟩
      · exact ⟨k.nkTab, controlKey_mem_keyTable k (by simp), by simp⟩
    · obtain ⟨n, below, rfl⟩ := List.mem_map.mp functionKey
      refine ⟨_, functionKey_mem_keyTable k (List.mem_range.mp below), .inl (.inr ?_)⟩
      rw [← nativeFunctionKeys_eq]
      exact List.mem_map_of_mem below
  · obtain ⟨j, bound, rfl⟩ := List.mem_iff_getElem.mp arrow
    rw [Vector.length_toList] at bound
    exact ⟨_, arrow_mem_keyTable k ⟨j, bound⟩, .inr (by simp [Vector.get_eq_getElem])⟩

/-- Settles O57: R128 (f) is about just the partners of these keys. -/
theorem specialKeysGiveUnprintableCodes : Obligations.SpecialKeysGiveUnprintableCodes := by
  intro s vk legal special
  obtain ⟨wf, unprintable⟩ := (keytabLegal_iff _).mp legal
  obtain ⟨nk, pair, listed⟩ := exists_special_partner s.params.keytab special
  refine ⟨nk, ?_, (printable_eq_false_iff nk).mp ((specialCodesUnprintable_iff _).mp unprintable nk listed)⟩
  rw [exec_vk2nk, romVk2Nk_of_mem_keyTable wf pair]

end Sys2Proof.Machine
